-- ==== Sys2Proof/Word.lean ====
section
/-! DEFINITION. The widths the spec gives the machine's values (rule R7, R66): bytes, 16-bit words,
4-bit fields and 12-bit addresses. Every value is unsigned (rule R9). -/

namespace Sys2Proof

/-- A memory cell, a general register, DT or ST: "an unsigned 8-bit value" (R20, R34, R35, R45). -/
abbrev Byte := BitVec 8

/-- I, PC, a return address or an instruction word: 16 bits (R22, R23, R30, R38). -/
abbrev Word := BitVec 16

/-- A 4-bit field of an instruction word: a register index X or Y, or the row count N (R66). -/
abbrev Nibble := BitVec 4

/-- The 12-bit address field NNN of an instruction word (R66). -/
abbrev Addr := BitVec 12

end Sys2Proof
end

