-- ==== Sys2Proof/Config.lean ====
section
/-! DEFINITION. The implementation parameters of rule R7 ("the configuration, which no step changes",
R40) and the machine's free values: the oracle answers of RAND and of WAITKEY. -/

namespace Sys2Proof

/-- `ISA_PROFILE` (R3): which instruction set the decoder accepts. -/
inductive Profile where
  /-- Exactly the six operations the source documents. -/
  | minimal
  /-- The six and the 28 further classic instructions. -/
  | standard
deriving DecidableEq, Repr

/-- `DRAW_VF_ORDER` (R118): whether DRAW resets VF before or after it reads V[X] and V[Y]. -/
inductive DrawVfOrder where
  | vfFirst
  | operandsFirst
deriving DecidableEq, Repr

/-- `SHIFT_SOURCE` (R158, R160): the register SHR and SHL shift. -/
inductive ShiftSource where
  | vx
  | vy
deriving DecidableEq, Repr

/-- `LOADSTORE_I` (R174, R175): what STORE and LOAD do to I. -/
inductive LoadStoreI where
  | unchanged
  | increment
deriving DecidableEq, Repr

/-- `JUMP_OFFSET` (R137): the register JUMP V0, NNN adds. -/
inductive JumpOffset where
  | v0
  | vx
deriving DecidableEq, Repr

/-- The parameters an implementation fixes (R7, R40). `FILL` is no field: it is the argument of
construction (`Machine.State.construct`) and lives on as the memory's contents. -/
structure Config where
  /-- `ISA_PROFILE` (R3). -/
  profile : Profile
  /-- `STACK_DEPTH` (R30). -/
  stackDepth : Nat
  /-- `DRAW_VF_ORDER` (R118). -/
  drawVfOrder : DrawVfOrder
  /-- `SHIFT_SOURCE` (R158, R160). -/
  shiftSource : ShiftSource
  /-- `LOADSTORE_I` (R174, R175). -/
  loadStoreI : LoadStoreI
  /-- `JUMP_OFFSET` (R137). -/
  jumpOffset : JumpOffset
  /-- `LOGIC_VF_RESET` (R153-R155). -/
  logicVfReset : Bool
  /-- `TICK_HZ` (R7, R239): nominal only; no rule and no definition of the model reads it. -/
  tickHz : Nat
deriving DecidableEq, Repr

/-- The defaults of rule R7. DESIGN CHOICE (log entry 1, unsafe): `ISA_PROFILE` has no default in the
spec; the instance that `State.reset` constructs takes `standard`, so that every row of the opcode
table runs. Statements are about every configuration. -/
def Config.default : Config where
  profile := .standard
  stackDepth := 16
  drawVfOrder := .vfFirst
  shiftSource := .vx
  loadStoreI := .unchanged
  jumpOffset := .v0
  logicVfReset := false
  tickHz := 60

/-- `draw_byte()` (R10, R186): the `k`-th oracle answer, "any 8-bit value, under no law". It has no
body, so nothing can be proved of its values (log entry 5, safe). -/
opaque Config.drawByte : Nat → Byte

/-- WAITKEY's choice among several keys that are down (R190: "a free choice when several are down"):
a number without a body that `pickKey` reduces to a position in the list of keys down (log entry 6,
safe). -/
opaque Config.keyPick : Nat → Nat

end Sys2Proof
end

