-- ==== Sys2Proof/Machine/State.lean ====
section
/-! DEFINITION. The machine's state as plain data (R40), the reasons a step can stop, and the state
right after construction (R41, R230). -/

namespace Sys2Proof.Machine

/-- The 4096-byte store (R45): the bytes that differ from what an unlisted address reads as, by rising
address. `Memory.background` (Ops) says what an unlisted address reads as, `Memory.wf` the form. -/
abbrev Memory := List Host.Cell

/-- The 64 by 32 grid of pixels (R32): column x, then row y, as in `Disp[x][y]`. -/
abbrev Display := Vector (Vector Bool 32) 64

/-- The engine run state (R29). -/
inductive RunState where
  /-- Constructed, no program loaded. -/
  | ready
  /-- A program is loaded; cycles run. -/
  | running
  /-- Terminal, after an error or a stop. -/
  | halted
deriving DecidableEq, Repr

/-- Why the engine halted (R36): the five error kinds of R200, or an external stop. -/
inductive HaltReason where
  /-- An address, a font index or a key index out of range (R201). -/
  | outOfBoundsAccess
  /-- A word no row of the profile matches (R202). -/
  | unknownOpcode
  /-- CALL on a full stack (R203). -/
  | stackOverflow
  /-- RETURN on an empty stack (R204). -/
  | stackUnderflow
  /-- LoadRom of more than 3584 bytes (R205). -/
  | romTooLarge
  /-- An external stop, which is no error (R208). -/
  | stopped
deriving DecidableEq, Repr

/-- The halt record (R36): the reason, the address of the instruction at fault, and its word when one
was fetched. -/
structure HaltRecord where
  reason : HaltReason
  pc : Word
  word : Option Word
deriving DecidableEq, Repr

/-- What a host collaborator may do to a constructed machine between two cycles (R218). -/
inductive HostAction where
  /-- Load a program image (R232, R233). -/
  | loadRom (rom : List Byte)
  /-- Request termination (R98). -/
  | stop
  /-- Set one key of the keypad state (R217). -/
  | setKey (k : Nibble) (down : Bool)
  /-- Decrement the timers (R214). -/
  | tick
  /-- Take a snapshot of the display (R216). -/
  | present
deriving DecidableEq, Repr

/-- One entry of a schedule, "any interleaving of cycles and host actions" (R218). -/
inductive Event where
  /-- The engine's own step. -/
  | cycle
  /-- A host action. -/
  | host (a : HostAction)
deriving DecidableEq, Repr

/-- The machine state of R40, its configuration, and two fields of the model's own: `oracle` and
`schedule`. -/
structure State where
  /-- V0-VF (R20). -/
  v : Vector Byte 16
  /-- The index register I (R22). -/
  i : Word
  /-- The program counter (R23). -/
  pc : Word
  /-- The call stack S, oldest entry first (R30). -/
  stack : List Word
  /-- Mem (R45). -/
  mem : Memory
  /-- Disp (R32). -/
  disp : Display
  /-- Key (R33). -/
  key : Vector Bool 16
  /-- The delay timer (R34). -/
  dt : Byte
  /-- The sound timer (R35). -/
  st : Byte
  /-- The engine run state (R29). -/
  run : RunState
  /-- The halt record (R36). -/
  halt : Option HaltRecord
  /-- The display was written since the host last took a snapshot (R37). -/
  dirty : Bool
  /-- The configuration, which no step changes (R40; log entry 1). -/
  cfg : Config
  /-- The model's own: how many oracle answers have been taken; DESIGN CHOICE (log entry 5, safe). -/
  oracle : Nat
  /-- The model's own: the events to come; when the list is empty the engine runs cycles. DESIGN
  CHOICE (log entry 3, safe). -/
  schedule : List Event
deriving DecidableEq, Repr

/-- Why a step answers no next state. Each is a state in which "the engine has no step" (R95), so it is
a stuck state: safe. No instruction raises either. DESIGN CHOICE (log entry 7). -/
inductive Fault where
  /-- Raised by `cycle` in `Ready`: no program is loaded (R95). Safe: the engine has no step. -/
  | engineReady
  /-- Raised by `cycle` in `Halted`, which is terminal (R95, R101). Safe: the engine has no step. -/
  | engineHalted
deriving DecidableEq, Repr

/-- Why an instruction has no meaning. -/
inductive Refusal where
  /-- Raised by an arm of `exec` whose instruction has no meaning in the model; no arm does so. Safe:
  nothing can be proved of such an instruction. -/
  | notModelled (mnemonic : String)
deriving DecidableEq, Repr

/-- The machine right after construction (R41, R230), with the default configuration (log entry 1),
FILL = 0 (log entry 2), no oracle answer taken and no event scheduled. Memory lists nothing: what an
unlisted address reads as is the font table and FILL. `State.construct` is the same for any
configuration and any FILL. -/
def State.reset : State where
  v := Vector.replicate 16 0#8
  i := 0#16
  pc := 0x200#16
  stack := []
  mem := []
  disp := Vector.replicate 64 (Vector.replicate 32 false)
  key := Vector.replicate 16 false
  dt := 0#8
  st := 0#8
  run := .ready
  halt := none
  dirty := false
  cfg := Config.default
  oracle := 0
  schedule := []

end Sys2Proof.Machine
end

