-- ==== Sys2Proof/Machine/Ops.lean ====
section
/-! DEFINITION. The named operations over memory, registers, stack and display that every meaning
uses, entry on an error (R96, R206), and instruction fetch (R88). -/

namespace Sys2Proof.Machine

/-- The outcome of a step of this machine. -/
abbrev Result := Host.Outcome State Fault Refusal

/-! ## Memory (R45-R55) -/

/-- `MEM_SIZE` (R7). -/
def memSize : Nat := 4096

/-- `FONT_BASE` (R7, R55). -/
def fontBase : Nat := 0x050

/-- `PROG_BASE` (R7, R54). -/
def progBase : Nat := 0x200

/-- `MAX_ROM` = `MEM_SIZE - PROG_BASE` = 3584 bytes (R7). -/
def maxRom : Nat := 3584

/-- The glyphs 0 to 7 of the font table (R55). -/
def fontLow : List Byte :=
  [ 0xF0, 0x90, 0x90, 0x90, 0xF0,  0x20, 0x60, 0x20, 0x20, 0x70,
    0xF0, 0x10, 0xF0, 0x80, 0xF0,  0xF0, 0x10, 0xF0, 0x10, 0xF0,
    0x90, 0x90, 0xF0, 0x10, 0x10,  0xF0, 0x80, 0xF0, 0x10, 0xF0,
    0xF0, 0x80, 0xF0, 0x90, 0xF0,  0xF0, 0x10, 0x20, 0x40, 0x40 ]

/-- The glyphs 8 to F of the font table (R55). -/
def fontHigh : List Byte :=
  [ 0xF0, 0x90, 0xF0, 0x90, 0xF0,  0xF0, 0x90, 0xF0, 0x10, 0xF0,
    0xF0, 0x90, 0xF0, 0x90, 0x90,  0xE0, 0x90, 0xE0, 0x90, 0xE0,
    0xF0, 0x80, 0x80, 0x80, 0xF0,  0xE0, 0x90, 0x90, 0x90, 0xE0,
    0xF0, 0x80, 0xF0, 0x80, 0xF0,  0xF0, 0x80, 0xF0, 0x80, 0x80 ]

/-- The font table: glyph d is the five bytes from offset 5*d, top row first (R55). -/
def fontTable : List Byte := fontLow ++ fontHigh

/-- The font byte that construction puts at an address, if the address is in 0x050-0x09F (R54). -/
def fontByte (a : Nat) : Option Byte := if fontBase ≤ a then fontTable[a - fontBase]? else none

/-- What an unlisted address reads as: the font table where it lies (R54, R55), and 0 elsewhere. The 0
is FILL, which the spec leaves to the launch: DESIGN CHOICE (log entry 2, unsafe). Any other FILL is
a memory that lists its bytes (`State.construct`). -/
def Memory.background (a : Nat) : Byte := (fontByte a).getD 0#8

/-- The canonical form: addresses strictly rising and inside the address space, and no entry equal to
what an unlisted address reads as. -/
abbrev Memory.wf (m : Memory) : Prop :=
  m.Pairwise (fun c d => c.1 < d.1) ∧ ∀ c ∈ m, c.1 < memSize ∧ c.2 ≠ Memory.background c.1

/-- `MemRead(a, 1)` past its bounds check (R47): the byte at an address. -/
def Memory.read (m : Memory) (a : Nat) : Byte :=
  match m with
  | [] => Memory.background a
  | c :: rest => if c.1 = a then c.2 else Memory.read rest a

/-- `MemWrite(a, 1, b)` past its bounds check (R47), keeping the canonical form. -/
def Memory.write (m : Memory) (a : Nat) (b : Byte) : Memory :=
  match m with
  | [] => if b = Memory.background a then [] else [(a, b)]
  | c :: rest =>
    if a < c.1 then (if b = Memory.background a then c :: rest else (a, b) :: c :: rest)
    else if a = c.1 then (if b = Memory.background a then rest else (a, b) :: rest)
    else c :: Memory.write rest a b

/-- One-byte reads at `n` increasing addresses from `a` (R50). -/
def Memory.readSpan (m : Memory) (a n : Nat) : List Byte := (List.range n).map fun k => m.read (a + k)

/-- One-byte writes at increasing addresses from `a`, in order (R50). -/
def Memory.writeSpan (m : Memory) (a : Nat) : List Byte → Memory
  | [] => m
  | b :: bs => Memory.writeSpan (m.write a b) (a + 1) bs

/-! ## Registers (R20-R25) -/

/-- VF, the flag register (R21). -/
def flagReg : Nibble := 0xF#4

/-- `V[x]` (R10, R69). -/
def State.reg (s : State) (x : Nibble) : Byte := s.v[x.toNat]'x.isLt

/-- `V[x] <- b` (R10, R69). -/
def State.setReg (s : State) (x : Nibble) (b : Byte) : State := { s with v := s.v.set x.toNat b x.isLt }

/-- `I <- a`. -/
def State.setIndex (s : State) (a : Word) : State := { s with i := a }

/-- `PC <- a`: a transfer of control replaces the advanced PC (R92). -/
def State.jumpTo (s : State) (a : Word) : State := { s with pc := a }

/-- `PC <- (PC + 2) mod 2^16`: the advance of every cycle before execute (R89, R25). -/
def State.advance (s : State) : State := { s with pc := s.pc + 2#16 }

/-- A skip adds a further 2 to the advanced PC when its condition holds (R93, R25). -/
def State.skipIf (s : State) (c : Bool) : State := if c then s.advance else s

/-- `DT <- b` (R192). -/
def State.setDelay (s : State) (b : Byte) : State := { s with dt := b }

/-- `ST <- b` (R193). -/
def State.setSound (s : State) (b : Byte) : State := { s with st := b }

/-- The memory component after the writes of an instruction. -/
def State.setMem (s : State) (m : Memory) : State := { s with mem := m }

/-- The display after CLEAR or DRAW, which also marks it dirty (R37, R111, R123). -/
def State.setDisplay (s : State) (d : Display) : State := { s with disp := d, dirty := true }

/-- One oracle answer has been taken (R10, R186, R190). -/
def State.takeAnswer (s : State) : State := { s with oracle := s.oracle + 1 }

/-! ## Call stack (R30) -/

/-- `Push(a)`; `none` is the overflow of a full stack. -/
def State.push (s : State) (a : Word) : Option State :=
  if s.stack.length = s.cfg.stackDepth then none else some { s with stack := s.stack ++ [a] }

/-- `Pop()`: the popped address and the state without it; `none` is the underflow of an empty stack. -/
def State.pop (s : State) : Option (Word × State) :=
  match s.stack.getLast? with
  | none => none
  | some a => some (a, { s with stack := s.stack.dropLast })

/-! ## Display (R32) -/

/-- `Disp[x][y]`; off outside the grid, which no rule reads. -/
def Display.pixel (d : Display) (x y : Nat) : Bool :=
  if h : x < 64 ∧ y < 32 then (d[x]'h.1)[y]'h.2 else false

/-- `Disp[x][y] <- b`; nothing outside the grid, where no rule writes. -/
def Display.setPixel (d : Display) (x y : Nat) (b : Bool) : Display :=
  if h : x < 64 ∧ y < 32 then d.set x ((d[x]'h.1).set y b h.2) h.1 else d

/-- Every cell off (R111). -/
def Display.blank : Display := Vector.replicate 64 (Vector.replicate 32 false)

/-- A sprite bit of 1 at (tx, ty) turns the pixel over, and a pixel that was on is a collision (R122).
The second component says whether a collision has happened so far. -/
def flipPixel (tx ty : Nat) (acc : Display × Bool) : Display × Bool :=
  (acc.1.setPixel tx ty (!acc.1.pixel tx ty), acc.2 || acc.1.pixel tx ty)

/-- The eight pixels of a sprite row, most significant bit first (R121). -/
def rowBits (b : Byte) : List Bool := (List.range 8).map fun c => b.getLsbD (7 - c)

/-- One sprite row from column tx on; the row ends at the right edge (R121, R122). -/
def drawRow (tx ty : Nat) : List Bool → Display × Bool → Display × Bool
  | [], acc => acc
  | bit :: bits, acc =>
    if tx < 64 then drawRow (tx + 1) ty bits (if bit then flipPixel tx ty acc else acc) else acc

/-- The sprite's rows from display row ty on; the sprite ends at the bottom edge (R120). -/
def drawRows (ox ty : Nat) : List Byte → Display × Bool → Display × Bool
  | [], acc => acc
  | b :: rows, acc =>
    if ty < 32 then drawRows ox (ty + 1) rows (drawRow ox ty (rowBits b) acc) else acc

/-! ## Errors (R96, R200, R206)

There is no return from an error (R207): nothing restores what `haltWith` saves, so no operation
stands beside it. -/

/-- Entry on an error or a stop: the run state and the halt record change, nothing else. Applied to
the state before the cycle, it discards every effect of the cycle, the PC's advance included (R96,
R98, R206). -/
def State.haltWith (s : State) (r : HaltReason) (pc : Word) (w : Option Word) : State :=
  { s with run := .halted, halt := some ⟨r, pc, w⟩ }

/-- `raise E(pc_instr, w)` of an executing instruction (R96), for `s` the state before the cycle, whose
PC is `pc_instr`. It answers a next state: the engine takes the error. -/
def State.raise (s : State) (r : HaltReason) (w : Word) : Result := .next (s.haltWith r s.pc (some w))

/-- The codes of the error kinds (R200), the spec's own numbers, on which no rule depends. A stop is no
error and has none (R208). -/
def errorCode : HaltReason → Option Nat
  | .outOfBoundsAccess => some 1
  | .unknownOpcode => some 2
  | .stackOverflow => some 3
  | .stackUnderflow => some 4
  | .romTooLarge => some 5
  | .stopped => none

end Sys2Proof.Machine
end

