-- ==== Sys2Proof/Machine/Flags.lean ====
section
/-! DEFINITION. Every flag computation: VF is the only flag (R26, R27). -/

namespace Sys2Proof.Machine

/-- The value a flag puts into VF: 1 or 0. -/
def flagByte (f : Bool) : Byte := if f then 1#8 else 0#8

/-- Carry out of bit 7 of `x + y` (R156). -/
def carryOut (x y : Byte) : Byte := flagByte (decide (x.toNat + y.toNat > 255))

/-- NOT borrow of `x - y`: 1 when x ≥ y (R157, R159). -/
def notBorrow (x y : Byte) : Byte := flagByte (decide (x.toNat ≥ y.toNat))

/-- The bit a right shift shifts out, `src & 1` (R158). -/
def shiftedOutRight (src : Byte) : Byte := src &&& 1#8

/-- The bit a left shift shifts out, `src >> 7` (R160). -/
def shiftedOutLeft (src : Byte) : Byte := src >>> 7

/-- The result to V[x], then the flag to VF, so that the flag is what VF holds when x = 0xF (R151). -/
def State.setResultFlag (s : State) (x : Nibble) (r f : Byte) : State := (s.setReg x r).setReg flagReg f

/-- The result of OR, AND or XOR to V[x], then VF := 0 under `LOGIC_VF_RESET` (R153-R155). -/
def State.setLogic (s : State) (x : Nibble) (r : Byte) : State :=
  if s.cfg.logicVfReset then (s.setReg x r).setReg flagReg 0#8 else s.setReg x r

end Sys2Proof.Machine
end

