-- ==== Sys2Proof/Syntax.lean ====
section
/-! DEFINITION. The instruction set as syntax: one constructor per row of spec/opcode_table.json, each
carrying the operand fields of rule R79 at the width rule R66 gives them. -/

namespace Sys2Proof

/-- A decoded instruction: the `Op` of rule R76, "each variant carrying its own strongly-typed operand
fields". A register operand is its 4-bit index; all 16 are legal everywhere (R69). -/
inductive Instr where
  /-- `00E0` CLEAR (R111). -/
  | clear
  /-- `00EE` RETURN (R131). -/
  | ret
  /-- `1NNN` JUMP NNN (R112). -/
  | jump (nnn : Addr)
  /-- `2NNN` CALL NNN (R132). -/
  | call (nnn : Addr)
  /-- `3XNN` SKIP.EQ VX, NN (R133). -/
  | skipEqImm (x : Nibble) (nn : Byte)
  /-- `4XNN` SKIP.NE VX, NN (R134). -/
  | skipNeImm (x : Nibble) (nn : Byte)
  /-- `5XY0` SKIP.EQ VX, VY (R135). -/
  | skipEqReg (x y : Nibble)
  /-- `6XNN` SET VX, NN (R113). -/
  | setImm (x : Nibble) (nn : Byte)
  /-- `7XNN` ADD VX, NN (R114). -/
  | addImm (x : Nibble) (nn : Byte)
  /-- `8XY0` SET VX, VY (R152). -/
  | setReg (x y : Nibble)
  /-- `8XY1` OR VX, VY (R153). -/
  | orReg (x y : Nibble)
  /-- `8XY2` AND VX, VY (R154). -/
  | andReg (x y : Nibble)
  /-- `8XY3` XOR VX, VY (R155). -/
  | xorReg (x y : Nibble)
  /-- `8XY4` ADD VX, VY (R156). -/
  | addReg (x y : Nibble)
  /-- `8XY5` SUB VX, VY (R157). -/
  | subReg (x y : Nibble)
  /-- `8XY6` SHR VX, VY (R158). -/
  | shr (x y : Nibble)
  /-- `8XY7` SUBN VX, VY (R159). -/
  | subn (x y : Nibble)
  /-- `8XYE` SHL VX, VY (R160). -/
  | shl (x y : Nibble)
  /-- `9XY0` SKIP.NE VX, VY (R136). -/
  | skipNeReg (x y : Nibble)
  /-- `ANNN` SET I, NNN (R115). -/
  | setI (nnn : Addr)
  /-- `BNNN` JUMP V0, NNN (R137); under `JUMP_OFFSET = vx` the register is NNN[11:8]. -/
  | jumpV0 (nnn : Addr)
  /-- `CXNN` RAND VX, NN (R186). -/
  | rand (x : Nibble) (nn : Byte)
  /-- `DXYN` DRAW VX, VY, N (R116). -/
  | draw (x y n : Nibble)
  /-- `EX9E` SKIP.KEY VX (R188). -/
  | skipKey (x : Nibble)
  /-- `EXA1` SKIP.NKEY VX (R189). -/
  | skipNkey (x : Nibble)
  /-- `FX07` GET VX, DT (R191). -/
  | getDt (x : Nibble)
  /-- `FX0A` WAITKEY VX (R190). -/
  | waitKey (x : Nibble)
  /-- `FX15` SET DT, VX (R192). -/
  | setDt (x : Nibble)
  /-- `FX18` SET ST, VX (R193). -/
  | setSt (x : Nibble)
  /-- `FX1E` ADD I, VX (R171). -/
  | addI (x : Nibble)
  /-- `FX29` FONT VX (R172). -/
  | font (x : Nibble)
  /-- `FX33` BCD VX (R173). -/
  | bcd (x : Nibble)
  /-- `FX55` STORE VX (R174). -/
  | store (x : Nibble)
  /-- `FX65` LOAD VX (R175). -/
  | load (x : Nibble)
deriving DecidableEq, Repr

end Sys2Proof
end

