-- ==== Sys2Proof/WellFormed.lean ====
section
/-! DEFINITION. When an instruction exists. Every operand field holds only legal values by its type
(R69), so the one check is the profile filter of rules R3 and R75. -/

namespace Sys2Proof

/-- The six operations the source documents, which make up the whole `minimal` profile (R110). -/
def Instr.documented : Instr → Bool
  | .clear => true
  | .jump _ => true
  | .setImm _ _ => true
  | .addImm _ _ => true
  | .setI _ => true
  | .draw _ _ _ => true
  | .ret => false
  | .call _ => false
  | .skipEqImm _ _ => false
  | .skipNeImm _ _ => false
  | .skipEqReg _ _ => false
  | .setReg _ _ => false
  | .orReg _ _ => false
  | .andReg _ _ => false
  | .xorReg _ _ => false
  | .addReg _ _ => false
  | .subReg _ _ => false
  | .shr _ _ => false
  | .subn _ _ => false
  | .shl _ _ => false
  | .skipNeReg _ _ => false
  | .jumpV0 _ => false
  | .rand _ _ => false
  | .skipKey _ => false
  | .skipNkey _ => false
  | .getDt _ => false
  | .waitKey _ => false
  | .setDt _ => false
  | .setSt _ => false
  | .addI _ => false
  | .font _ => false
  | .bcd _ => false
  | .store _ => false
  | .load _ => false

/-- `i` is an instruction of profile `p` (R3, R75). -/
def wellFormed (p : Profile) (i : Instr) : Bool :=
  match p with
  | .standard => true
  | .minimal => i.documented

end Sys2Proof
end

