-- ==== Sys2Proof/Decode.lean ====
section
/-! DEFINITION. The decoder of rules R65-R77, total on words and on bytes, the encoder of the same
encodings, and the opcode table as data (spec/opcode_table.json). -/

namespace Sys2Proof

/-! ## Fields of an instruction word (R66, R67) -/

/-- `family(w) = w >> 12`. -/
def family (w : Word) : Nibble := w.extractLsb' 12 4

/-- `X(w) = (w >> 8) & 0xF`. -/
def fieldX (w : Word) : Nibble := w.extractLsb' 8 4

/-- `Y(w) = (w >> 4) & 0xF`. -/
def fieldY (w : Word) : Nibble := w.extractLsb' 4 4

/-- `N(w) = w & 0xF`. -/
def fieldN (w : Word) : Nibble := w.extractLsb' 0 4

/-- `NN(w) = w & 0xFF`. -/
def fieldNN (w : Word) : Byte := w.extractLsb' 0 8

/-- `NNN(w) = w & 0xFFF`. -/
def fieldNNN (w : Word) : Addr := w.extractLsb' 0 12

/-- Big-endian concatenation `(hi << 8) | lo` (R9, R49): the byte at the lower address is bits 15:8. -/
def bigEndian (hi lo : Byte) : Word := hi ++ lo

/-- Bits 15:8 of a word, the byte stored at the lower address (R49). -/
def highByte (w : Word) : Byte := w.extractLsb' 8 8

/-- Bits 7:0 of a word, the byte stored at the higher address (R49). -/
def lowByte (w : Word) : Byte := w.extractLsb' 0 8

/-! ## Decoding -/

/-- Why a word or a byte sequence is no instruction. -/
inductive DecodeError where
  /-- `Unknown` of rule R76: no row of the profile matches the word. -/
  | unknownOpcode (w : Word)
  /-- Fewer than the two bytes of an instruction word (R65). -/
  | truncated
deriving DecidableEq, Repr

/-- Family 0x8 is decoded on N (R72). -/
def decodeAlu (x y n : Nibble) : Option Instr :=
  match n.toNat with
  | 0x0 => some (.setReg x y)
  | 0x1 => some (.orReg x y)
  | 0x2 => some (.andReg x y)
  | 0x3 => some (.xorReg x y)
  | 0x4 => some (.addReg x y)
  | 0x5 => some (.subReg x y)
  | 0x6 => some (.shr x y)
  | 0x7 => some (.subn x y)
  | 0xE => some (.shl x y)
  | _ => none

/-- Family 0xE is decoded on NN (R73). -/
def decodeKey (x : Nibble) (nn : Byte) : Option Instr :=
  match nn.toNat with
  | 0x9E => some (.skipKey x)
  | 0xA1 => some (.skipNkey x)
  | _ => none

/-- Family 0xF is decoded on NN (R73). -/
def decodeMisc (x : Nibble) (nn : Byte) : Option Instr :=
  match nn.toNat with
  | 0x07 => some (.getDt x)
  | 0x0A => some (.waitKey x)
  | 0x15 => some (.setDt x)
  | 0x18 => some (.setSt x)
  | 0x1E => some (.addI x)
  | 0x29 => some (.font x)
  | 0x33 => some (.bcd x)
  | 0x55 => some (.store x)
  | 0x65 => some (.load x)
  | _ => none

/-- The opcode map of the standard profile, one line per family (R70). Family 0x0 is decoded on the
whole word (R71); families 0x5 and 0x9 require N = 0 (R74). -/
def decodeStandard (w : Word) : Option Instr :=
  match (family w).toNat with
  | 0x0 => if w = 0x00E0#16 then some .clear else if w = 0x00EE#16 then some .ret else none
  | 0x1 => some (.jump (fieldNNN w))
  | 0x2 => some (.call (fieldNNN w))
  | 0x3 => some (.skipEqImm (fieldX w) (fieldNN w))
  | 0x4 => some (.skipNeImm (fieldX w) (fieldNN w))
  | 0x5 => if fieldN w = 0#4 then some (.skipEqReg (fieldX w) (fieldY w)) else none
  | 0x6 => some (.setImm (fieldX w) (fieldNN w))
  | 0x7 => some (.addImm (fieldX w) (fieldNN w))
  | 0x8 => decodeAlu (fieldX w) (fieldY w) (fieldN w)
  | 0x9 => if fieldN w = 0#4 then some (.skipNeReg (fieldX w) (fieldY w)) else none
  | 0xA => some (.setI (fieldNNN w))
  | 0xB => some (.jumpV0 (fieldNNN w))
  | 0xC => some (.rand (fieldX w) (fieldNN w))
  | 0xD => some (.draw (fieldX w) (fieldY w) (fieldN w))
  | 0xE => decodeKey (fieldX w) (fieldNN w)
  | 0xF => decodeMisc (fieldX w) (fieldNN w)
  | _ => none

/-- `Decode(w, ISA_PROFILE)` (R76): the opcode map, then the profile filter of rule R75. -/
def decode (p : Profile) (w : Word) : Except DecodeError Instr :=
  match decodeStandard w with
  | some i => if wellFormed p i then .ok i else .error (.unknownOpcode w)
  | none => .error (.unknownOpcode w)

/-- The instruction at the head of a byte sequence, and the bytes after it (R65, R49). -/
def decodeBytes (p : Profile) : List Byte → Except DecodeError (Instr × List Byte)
  | hi :: lo :: rest =>
    match decode p (bigEndian hi lo) with
    | .ok i => .ok (i, rest)
    | .error e => .error e
  | _ => .error .truncated

/-! ## Encoding -/

/-- A word of shape `fNNN` (R66). -/
def formNNN (f : Nibble) (nnn : Addr) : Word := f ++ nnn

/-- A word of shape `fXNN` (R66). -/
def formXNN (f x : Nibble) (nn : Byte) : Word := f ++ x ++ nn

/-- A word of shape `fXYN` (R66). -/
def formXYN (f x y n : Nibble) : Word := f ++ x ++ y ++ n

/-- The instruction word of an instruction: its row of spec/opcode_table.json. -/
def encode : Instr → Word
  | .clear => 0x00E0#16
  | .ret => 0x00EE#16
  | .jump nnn => formNNN 0x1#4 nnn
  | .call nnn => formNNN 0x2#4 nnn
  | .skipEqImm x nn => formXNN 0x3#4 x nn
  | .skipNeImm x nn => formXNN 0x4#4 x nn
  | .skipEqReg x y => formXYN 0x5#4 x y 0x0#4
  | .setImm x nn => formXNN 0x6#4 x nn
  | .addImm x nn => formXNN 0x7#4 x nn
  | .setReg x y => formXYN 0x8#4 x y 0x0#4
  | .orReg x y => formXYN 0x8#4 x y 0x1#4
  | .andReg x y => formXYN 0x8#4 x y 0x2#4
  | .xorReg x y => formXYN 0x8#4 x y 0x3#4
  | .addReg x y => formXYN 0x8#4 x y 0x4#4
  | .subReg x y => formXYN 0x8#4 x y 0x5#4
  | .shr x y => formXYN 0x8#4 x y 0x6#4
  | .subn x y => formXYN 0x8#4 x y 0x7#4
  | .shl x y => formXYN 0x8#4 x y 0xE#4
  | .skipNeReg x y => formXYN 0x9#4 x y 0x0#4
  | .setI nnn => formNNN 0xA#4 nnn
  | .jumpV0 nnn => formNNN 0xB#4 nnn
  | .rand x nn => formXNN 0xC#4 x nn
  | .draw x y n => formXYN 0xD#4 x y n
  | .skipKey x => formXNN 0xE#4 x 0x9E#8
  | .skipNkey x => formXNN 0xE#4 x 0xA1#8
  | .getDt x => formXNN 0xF#4 x 0x07#8
  | .waitKey x => formXNN 0xF#4 x 0x0A#8
  | .setDt x => formXNN 0xF#4 x 0x15#8
  | .setSt x => formXNN 0xF#4 x 0x18#8
  | .addI x => formXNN 0xF#4 x 0x1E#8
  | .font x => formXNN 0xF#4 x 0x29#8
  | .bcd x => formXNN 0xF#4 x 0x33#8
  | .store x => formXNN 0xF#4 x 0x55#8
  | .load x => formXNN 0xF#4 x 0x65#8

/-- The two bytes of an instruction as memory holds them, big-endian (R49). -/
def encodeBytes (i : Instr) : List Byte := [highByte (encode i), lowByte (encode i)]

/-! ## The opcode table as data (R70, spec/opcode_table.json) -/

/-- One row of the opcode table: a word `w` matches when `w & mask = pattern`. -/
structure OpcodeRow where
  mnemonic : String
  pattern : Word
  mask : Word
  /-- The row is in both profiles; otherwise it is in `standard` only. -/
  inBoth : Bool
deriving DecidableEq, Repr

/-- Does the word match the row? -/
def OpcodeRow.covers (r : OpcodeRow) (w : Word) : Bool := w &&& r.mask == r.pattern

/-- The rows of families 0x0 to 0x7. -/
def opcodeRowsLow : List OpcodeRow :=
  [ ⟨"CLEAR", 0x00E0, 0xFFFF, true⟩,
    ⟨"RETURN", 0x00EE, 0xFFFF, false⟩,
    ⟨"JUMP_NNN", 0x1000, 0xF000, true⟩,
    ⟨"CALL_NNN", 0x2000, 0xF000, false⟩,
    ⟨"SKIP.EQ_VX__NN", 0x3000, 0xF000, false⟩,
    ⟨"SKIP.NE_VX__NN", 0x4000, 0xF000, false⟩,
    ⟨"SKIP.EQ_VX__VY", 0x5000, 0xF00F, false⟩,
    ⟨"SET_VX__NN", 0x6000, 0xF000, true⟩,
    ⟨"ADD_VX__NN", 0x7000, 0xF000, true⟩ ]

/-- The rows of family 0x8. -/
def opcodeRowsAlu : List OpcodeRow :=
  [ ⟨"SET_VX__VY", 0x8000, 0xF00F, false⟩,
    ⟨"OR_VX__VY", 0x8001, 0xF00F, false⟩,
    ⟨"AND_VX__VY", 0x8002, 0xF00F, false⟩,
    ⟨"XOR_VX__VY", 0x8003, 0xF00F, false⟩,
    ⟨"ADD_VX__VY", 0x8004, 0xF00F, false⟩,
    ⟨"SUB_VX__VY", 0x8005, 0xF00F, false⟩,
    ⟨"SHR_VX__VY", 0x8006, 0xF00F, false⟩,
    ⟨"SUBN_VX__VY", 0x8007, 0xF00F, false⟩,
    ⟨"SHL_VX__VY", 0x800E, 0xF00F, false⟩ ]

/-- The rows of families 0x9 to 0xF. -/
def opcodeRowsHigh : List OpcodeRow :=
  [ ⟨"SKIP.NE_VX__VY", 0x9000, 0xF00F, false⟩,
    ⟨"SET_I__NNN", 0xA000, 0xF000, true⟩,
    ⟨"JUMP_V0__NNN", 0xB000, 0xF000, false⟩,
    ⟨"RAND_VX__NN", 0xC000, 0xF000, false⟩,
    ⟨"DRAW_VX__VY__N", 0xD000, 0xF000, true⟩,
    ⟨"SKIP.KEY_VX", 0xE09E, 0xF0FF, false⟩,
    ⟨"SKIP.NKEY_VX", 0xE0A1, 0xF0FF, false⟩,
    ⟨"GET_VX__DT", 0xF007, 0xF0FF, false⟩,
    ⟨"WAITKEY_VX", 0xF00A, 0xF0FF, false⟩,
    ⟨"SET_DT__VX", 0xF015, 0xF0FF, false⟩,
    ⟨"SET_ST__VX", 0xF018, 0xF0FF, false⟩,
    ⟨"ADD_I__VX", 0xF01E, 0xF0FF, false⟩,
    ⟨"FONT_VX", 0xF029, 0xF0FF, false⟩,
    ⟨"BCD_VX", 0xF033, 0xF0FF, false⟩,
    ⟨"STORE_VX", 0xF055, 0xF0FF, false⟩,
    ⟨"LOAD_VX", 0xF065, 0xF0FF, false⟩ ]

/-- The 34 rows of spec/opcode_table.json, in its order. -/
def opcodeTable : List OpcodeRow := opcodeRowsLow ++ opcodeRowsAlu ++ opcodeRowsHigh

/-- The mnemonic of an instruction, as spec/opcode_table.json spells it. -/
def Instr.mnemonic : Instr → String
  | .clear => "CLEAR"
  | .ret => "RETURN"
  | .jump _ => "JUMP_NNN"
  | .call _ => "CALL_NNN"
  | .skipEqImm _ _ => "SKIP.EQ_VX__NN"
  | .skipNeImm _ _ => "SKIP.NE_VX__NN"
  | .skipEqReg _ _ => "SKIP.EQ_VX__VY"
  | .setImm _ _ => "SET_VX__NN"
  | .addImm _ _ => "ADD_VX__NN"
  | .setReg _ _ => "SET_VX__VY"
  | .orReg _ _ => "OR_VX__VY"
  | .andReg _ _ => "AND_VX__VY"
  | .xorReg _ _ => "XOR_VX__VY"
  | .addReg _ _ => "ADD_VX__VY"
  | .subReg _ _ => "SUB_VX__VY"
  | .shr _ _ => "SHR_VX__VY"
  | .subn _ _ => "SUBN_VX__VY"
  | .shl _ _ => "SHL_VX__VY"
  | .skipNeReg _ _ => "SKIP.NE_VX__VY"
  | .setI _ => "SET_I__NNN"
  | .jumpV0 _ => "JUMP_V0__NNN"
  | .rand _ _ => "RAND_VX__NN"
  | .draw _ _ _ => "DRAW_VX__VY__N"
  | .skipKey _ => "SKIP.KEY_VX"
  | .skipNkey _ => "SKIP.NKEY_VX"
  | .getDt _ => "GET_VX__DT"
  | .waitKey _ => "WAITKEY_VX"
  | .setDt _ => "SET_DT__VX"
  | .setSt _ => "SET_ST__VX"
  | .addI _ => "ADD_I__VX"
  | .font _ => "FONT_VX"
  | .bcd _ => "BCD_VX"
  | .store _ => "STORE_VX"
  | .load _ => "LOAD_VX"

/-! ## The host's question about a table row -/

/-- The instruction the decoder reads from the `nbits` low bits of `w`, the bits above them zero: the
one 16-bit word, laid out big-endian and given to `decodeBytes` under the standard profile, whose
rows are the whole table (R70). -/
def decodeTableWord (nbits w : Nat) : Option Instr :=
  let word : Word := BitVec.ofNat 16 (w % 2 ^ nbits)
  match decodeBytes .standard [highByte word, lowByte word] with
  | .ok (i, _) => some i
  | .error _ => none

end Sys2Proof
end

