-- ==== Sys2Proof/Machine/Operands.lean ====
section
/-! DEFINITION. The operand forms: register and immediate operands, memory-indirect addresses through
I (R176), the operands that a parameter selects, indices with a range, and the fetch of the
instruction itself (R88). -/

namespace Sys2Proof.Machine

/-- Zero extension of NNN to 16 bits (R9, R68). -/
def zeroExtend16 (nnn : Addr) : Word := nnn.setWidth 16

/-- Zero extension of a register's value to 16 bits (R9). -/
def byteToWord (b : Byte) : Word := b.setWidth 16

/-- The first address of a memory-indirect access, an integer that is never reduced (R48, R176). -/
def State.base (s : State) : Nat := s.i.toNat

/-- Every one of the `n` addresses `I .. I + n - 1` lies in 0x000-0xFFF (R47, R48); no address needs
to when `n = 0` (R117). -/
def State.spanInBounds (s : State) (n : Nat) : Bool := decide (n = 0 ∨ s.base + (n - 1) ≤ 0xFFF)

/-- The registers V0 to V[x], the operand list of STORE (R174). -/
def State.regsUpTo (s : State) (x : Nibble) : List Byte := s.v.toList.take (x.toNat + 1)

/-- `V[k] <- MemRead(I + k, 1)` for k from 0 to x (R175). -/
def State.loadRegs (s : State) (x : Nibble) : State :=
  { s with v := Vector.ofFn fun k : Fin 16 => if k.val ≤ x.toNat then s.mem.read (s.base + k.val) else s.v[k] }

/-- I after STORE and LOAD, by `LOADSTORE_I` (R174, R175). -/
def State.indexAfterSpan (s : State) (x : Nibble) : Word :=
  match s.cfg.loadStoreI with
  | .unchanged => s.i
  | .increment => s.i + BitVec.ofNat 16 (x.toNat + 1)

/-- The operand of SHR and SHL, by `SHIFT_SOURCE` (R158, R160). -/
def State.shiftOperand (s : State) (x y : Nibble) : Byte :=
  match s.cfg.shiftSource with
  | .vx => s.reg x
  | .vy => s.reg y

/-- The register JUMP V0 adds, by `JUMP_OFFSET` (R137): V0, or V[X] with X = NNN[11:8]. -/
def State.jumpOffset (s : State) (nnn : Addr) : Byte :=
  match s.cfg.jumpOffset with
  | .v0 => s.reg 0#4
  | .vx => s.reg (nnn.extractLsb' 8 4)

/-- V[x] as DRAW reads it, before or after VF is reset, by `DRAW_VF_ORDER` (R118). -/
def State.drawOperand (s : State) (x : Nibble) : Byte :=
  match s.cfg.drawVfOrder with
  | .vfFirst => (s.setReg flagReg 0#8).reg x
  | .operandsFirst => s.reg x

/-- DRAW's origin column, `V[X] mod 64` (R119). -/
def State.originX (s : State) (x : Nibble) : Nat := (s.drawOperand x).toNat % 64

/-- DRAW's origin row, `V[Y] mod 32` (R119). -/
def State.originY (s : State) (y : Nibble) : Nat := (s.drawOperand y).toNat % 32

/-- A value as an index into the 16 glyphs or the 16 keys; `none` above 0xF (R172, R187). -/
def hexIndex (b : Byte) : Option (Fin 16) := if h : b.toNat < 16 then some ⟨b.toNat, h⟩ else none

/-- The address of glyph d: `FONT_BASE + 5 * d` (R172). -/
def glyphAddress (d : Fin 16) : Word := BitVec.ofNat 16 (fontBase + 5 * d.val)

/-- The decimal digits of a byte, hundreds first (R173). -/
def decimalDigits (b : Byte) : List Byte :=
  [ BitVec.ofNat 8 (b.toNat / 100), BitVec.ofNat 8 (b.toNat / 10 % 10), BitVec.ofNat 8 (b.toNat % 10) ]

/-- The keys that are down, in rising order. -/
def State.keysDown (s : State) : List (Fin 16) := (List.finRange 16).filter fun k => s.key[k]

/-- "any k in 0..15 with Key[k]" (R190): none when no key is down, else the key at a position that the
free number `n` selects. -/
def pickKey (down : List (Fin 16)) (n : Nat) : Option (Fin 16) :=
  match down with
  | [] => none
  | [k] => some k
  | k :: rest => some ((k :: rest).getD (n % (rest.length + 1)) k)

/-- Fetch (R88): the two bytes at [PC, PC+1], big-endian; `none` when they do not both lie in memory. -/
def State.fetch (s : State) : Option Word :=
  if s.pc.toNat + 1 ≤ 0xFFF then some (bigEndian (s.mem.read s.pc.toNat) (s.mem.read (s.pc.toNat + 1)))
  else none

end Sys2Proof.Machine
end

