-- ==== Sys2Proof/Machine/Alu.lean ====
section
/-! DEFINITION. Register-to-register arithmetic and logic (43_alu.md). Both operands are read from the
state before the instruction, then the result is written, then the flag (R151). -/

namespace Sys2Proof.Machine

/-- SET VX, VY (R152): no flag, whatever `LOGIC_VF_RESET` is. -/
def execSetReg (x y : Nibble) (s : State) : Result := .next (s.advance.setReg x (s.reg y))

/-- OR VX, VY (R153). -/
def execOrReg (x y : Nibble) (s : State) : Result := .next (s.advance.setLogic x (s.reg x ||| s.reg y))

/-- AND VX, VY (R154). -/
def execAndReg (x y : Nibble) (s : State) : Result := .next (s.advance.setLogic x (s.reg x &&& s.reg y))

/-- XOR VX, VY (R155). -/
def execXorReg (x y : Nibble) (s : State) : Result := .next (s.advance.setLogic x (s.reg x ^^^ s.reg y))

/-- ADD VX, VY (R156). -/
def execAddReg (x y : Nibble) (s : State) : Result :=
  .next (s.advance.setResultFlag x (s.reg x + s.reg y) (carryOut (s.reg x) (s.reg y)))

/-- SUB VX, VY (R157): `V[X] - V[Y]`. -/
def execSubReg (x y : Nibble) (s : State) : Result :=
  .next (s.advance.setResultFlag x (s.reg x - s.reg y) (notBorrow (s.reg x) (s.reg y)))

/-- SHR VX, VY (R158). -/
def execShr (x y : Nibble) (s : State) : Result :=
  .next (s.advance.setResultFlag x (s.shiftOperand x y >>> 1) (shiftedOutRight (s.shiftOperand x y)))

/-- SUBN VX, VY (R159): `V[Y] - V[X]`. -/
def execSubn (x y : Nibble) (s : State) : Result :=
  .next (s.advance.setResultFlag x (s.reg y - s.reg x) (notBorrow (s.reg y) (s.reg x)))

/-- SHL VX, VY (R160). -/
def execShl (x y : Nibble) (s : State) : Result :=
  .next (s.advance.setResultFlag x (s.shiftOperand x y <<< 1) (shiftedOutLeft (s.shiftOperand x y)))

end Sys2Proof.Machine
end

