-- ==== Sys2Proof/Machine/ControlFlow.lean ====
section
/-! DEFINITION. Subroutines, skips and the computed jump (42_control_flow.md). -/

namespace Sys2Proof.Machine

/-- RETURN (R131): `pc <- Pop()`. -/
def execRet (s : State) : Result :=
  match s.advance.pop with
  | some (a, t) => .next (t.jumpTo a)
  | none => s.raise .stackUnderflow (encode .ret)

/-- CALL NNN (R132): `Push(PC)`, the advanced PC, then `pc <- zext_16(NNN)`. -/
def execCall (nnn : Addr) (s : State) : Result :=
  match s.advance.push s.advance.pc with
  | some t => .next (t.jumpTo (zeroExtend16 nnn))
  | none => s.raise .stackOverflow (encode (.call nnn))

/-- SKIP.EQ VX, NN (R133). -/
def execSkipEqImm (x : Nibble) (nn : Byte) (s : State) : Result :=
  .next (s.advance.skipIf (decide (s.reg x = nn)))

/-- SKIP.NE VX, NN (R134). -/
def execSkipNeImm (x : Nibble) (nn : Byte) (s : State) : Result :=
  .next (s.advance.skipIf (decide (s.reg x ≠ nn)))

/-- SKIP.EQ VX, VY (R135). -/
def execSkipEqReg (x y : Nibble) (s : State) : Result :=
  .next (s.advance.skipIf (decide (s.reg x = s.reg y)))

/-- SKIP.NE VX, VY (R136). -/
def execSkipNeReg (x y : Nibble) (s : State) : Result :=
  .next (s.advance.skipIf (decide (s.reg x ≠ s.reg y)))

/-- JUMP V0, NNN (R137): the sum is not reduced mod 4096. -/
def execJumpV0 (nnn : Addr) (s : State) : Result :=
  .next (s.advance.jumpTo (zeroExtend16 nnn + byteToWord (s.jumpOffset nnn)))

end Sys2Proof.Machine
end

