-- ==== Sys2Proof/Machine/Documented.lean ====
section
/-! DEFINITION. The six documented operations (41_documented_ops.md). Each meaning takes the state
before the cycle, with PC = pc_instr, and advances PC itself (R89). -/

namespace Sys2Proof.Machine

/-- CLEAR (R111). -/
def execClear (s : State) : Result := .next (s.advance.setDisplay Display.blank)

/-- JUMP NNN (R112). -/
def execJump (nnn : Addr) (s : State) : Result := .next (s.advance.jumpTo (zeroExtend16 nnn))

/-- SET VX, NN (R113). -/
def execSetImm (x : Nibble) (nn : Byte) (s : State) : Result := .next (s.advance.setReg x nn)

/-- ADD VX, NN (R114): the carry is recorded nowhere. -/
def execAddImm (x : Nibble) (nn : Byte) (s : State) : Result := .next (s.advance.setReg x (s.reg x + nn))

/-- SET I, NNN (R115). -/
def execSetI (nnn : Addr) (s : State) : Result := .next (s.advance.setIndex (zeroExtend16 nnn))

/-- DRAW VX, VY, N (R116): all N sprite addresses are checked before any effect (R117), the origin
wraps (R119), the rows are drawn and clipped (R120-R122), VF says whether there was a collision, and
the display is dirty whatever was drawn (R123). -/
def execDraw (x y n : Nibble) (s : State) : Result :=
  if s.spanInBounds n.toNat then
    let drawn := drawRows (s.originX x) (s.originY y) (s.mem.readSpan s.base n.toNat) (s.disp, false)
    .next ((s.advance.setReg flagReg (flagByte drawn.2)).setDisplay drawn.1)
  else s.raise .outOfBoundsAccess (encode (.draw x y n))

end Sys2Proof.Machine
end

