-- ==== Sys2Proof/Machine/IndexMemory.lean ====
section
/-! DEFINITION. Index arithmetic, font lookup, BCD and register load/store (44_index_memory.md). Every
byte's bounds are checked before any effect (R170). -/

namespace Sys2Proof.Machine

/-- ADD I, VX (R171): mod 2^16, VF is no carry here. -/
def execAddI (x : Nibble) (s : State) : Result := .next (s.advance.setIndex (s.i + byteToWord (s.reg x)))

/-- FONT VX (R172): an index above 0xF is out of range. -/
def execFont (x : Nibble) (s : State) : Result :=
  match hexIndex (s.reg x) with
  | some d => .next (s.advance.setIndex (glyphAddress d))
  | none => s.raise .outOfBoundsAccess (encode (.font x))

/-- BCD VX (R173): three digits at I, I + 1, I + 2. -/
def execBcd (x : Nibble) (s : State) : Result :=
  if s.spanInBounds 3 then .next (s.advance.setMem (s.mem.writeSpan s.base (decimalDigits (s.reg x))))
  else s.raise .outOfBoundsAccess (encode (.bcd x))

/-- STORE VX (R174): V0 to VX at I and on, then I by `LOADSTORE_I`. -/
def execStore (x : Nibble) (s : State) : Result :=
  if s.spanInBounds (x.toNat + 1) then
    .next ((s.advance.setMem (s.mem.writeSpan s.base (s.regsUpTo x))).setIndex (s.indexAfterSpan x))
  else s.raise .outOfBoundsAccess (encode (.store x))

/-- LOAD VX (R175): V0 to VX from I and on, then I by `LOADSTORE_I`. -/
def execLoad (x : Nibble) (s : State) : Result :=
  if s.spanInBounds (x.toNat + 1) then .next ((s.advance.loadRegs x).setIndex (s.indexAfterSpan x))
  else s.raise .outOfBoundsAccess (encode (.load x))

end Sys2Proof.Machine
end

