-- ==== Sys2Proof/Machine/TimersInput.lean ====
section
/-! DEFINITION. Random, keypad and timer instructions (45_timers_input_random.md). -/

namespace Sys2Proof.Machine

/-- RAND VX, NN (R186): the oracle's byte AND NN; the byte is a free value (log entry 5). -/
def execRand (x : Nibble) (nn : Byte) (s : State) : Result :=
  .next ((s.advance.setReg x (Config.drawByte s.oracle &&& nn)).takeAnswer)

/-- SKIP.KEY VX (R187, R188). -/
def execSkipKey (x : Nibble) (s : State) : Result :=
  match hexIndex (s.reg x) with
  | some k => .next (s.advance.skipIf s.key[k])
  | none => s.raise .outOfBoundsAccess (encode (.skipKey x))

/-- SKIP.NKEY VX (R187, R189). -/
def execSkipNkey (x : Nibble) (s : State) : Result :=
  match hexIndex (s.reg x) with
  | some k => .next (s.advance.skipIf (!s.key[k]))
  | none => s.raise .outOfBoundsAccess (encode (.skipNkey x))

/-- GET VX, DT (R191). -/
def execGetDt (x : Nibble) (s : State) : Result := .next (s.advance.setReg x s.dt)

/-- WAITKEY VX (R190, R194): with a key down, its number to V[X]; which one, when several are down, is
a free value (log entry 6). With none down the instruction holds: "nothing is written" and "the same
instruction is fetched and decoded again when the engine next steps", so the state stays as it was
(log entry 4). -/
def execWaitKey (x : Nibble) (s : State) : Result :=
  match pickKey s.keysDown (Config.keyPick s.oracle) with
  | some k => .next ((s.advance.setReg x (BitVec.ofNat 8 k.val)).takeAnswer)
  | none => .next s

/-- SET DT, VX (R192). -/
def execSetDt (x : Nibble) (s : State) : Result := .next (s.advance.setDelay (s.reg x))

/-- SET ST, VX (R193). -/
def execSetSt (x : Nibble) (s : State) : Result := .next (s.advance.setSound (s.reg x))

end Sys2Proof.Machine
end

