-- ==== Sys2Proof/Machine/HostInterface.lean ====
section
/-! DEFINITION. The host interface (60_exceptions.md section 5, 70_reset_and_hazards.md): construction,
the actions a collaborator may take between cycles, and what it may observe (R218). -/

namespace Sys2Proof.Machine

/-- The byte construction puts at an address: the font table over FILL (R230, R54). -/
def initialByte (fill : Nat → Byte) (a : Nat) : Byte := (fontByte a).getD (fill a)

/-- The memory of a constructed instance, in canonical form (R54, R230). -/
def Memory.construct (fill : Nat → Byte) : Memory :=
  (List.range memSize).filterMap fun a =>
    if initialByte fill a = Memory.background a then none else some (a, initialByte fill a)

/-- `Construct(FILL)` (R230) for any configuration: the state of R41. `State.reset` is its result for
the default configuration and FILL = 0. -/
def State.construct (cfg : Config) (fill : Nat → Byte) : State :=
  { State.reset with mem := Memory.construct fill, cfg := cfg }

/-- `LoadRom(rom)`, enabled in Ready only (R232); a ROM of more than 3584 bytes writes no memory and
halts the engine (R233). -/
def State.loadRom (rom : List Byte) (s : State) : State :=
  match s.run with
  | .ready =>
    if rom.length ≤ maxRom then { s with mem := s.mem.writeSpan progBase rom, run := .running }
    else s.haltWith .romTooLarge (BitVec.ofNat 16 progBase) none
  | .running => s
  | .halted => s

/-- Stop, enabled in Ready and Running (R98, R208). -/
def State.stop (s : State) : State :=
  match s.run with
  | .ready => s.haltWith .stopped s.pc none
  | .running => s.haltWith .stopped s.pc none
  | .halted => s

/-- `SetKey(k, b)`, enabled in Ready and Running (R217). -/
def State.setKey (k : Nibble) (down : Bool) (s : State) : State :=
  match s.run with
  | .ready => { s with key := s.key.set k.toNat down k.isLt }
  | .running => { s with key := s.key.set k.toNat down k.isLt }
  | .halted => s

/-- A down-counter that stays at 0 (R214). -/
def countDown (b : Byte) : Byte := if b = 0#8 then 0#8 else b - 1#8

/-- Tick, enabled in Running (R214), also while WAITKEY holds. -/
def State.tick (s : State) : State :=
  match s.run with
  | .ready => s
  | .running => { s with dt := countDown s.dt, st := countDown s.st }
  | .halted => s

/-- Present, enabled in every run state (R216): the copy of the display the host receives, and the
state after. -/
def State.present (s : State) : Display × State := (s.disp, { s with dirty := false })

/-- The core's sound output, which the host may read at any time (R215). -/
def State.soundActive (s : State) : Bool := decide (s.st ≠ 0#8)

/-- What a host action does to the machine (R218). An action that is not enabled has no effect (R86;
log entry 8). The copy that Present returns goes to the host and is not kept (log entry 10). -/
def State.hostAct (a : HostAction) (s : State) : State :=
  match a with
  | .loadRom rom => s.loadRom rom
  | .stop => s.stop
  | .setKey k down => s.setKey k down
  | .tick => s.tick
  | .present => s.present.2

end Sys2Proof.Machine
end

