-- ==== Sys2Proof/Machine/Engine.lean ====
section
/-! DEFINITION. The cycle (R87, R100), the interleaving of cycles with host actions (R218), and where an
instruction word is placed so that the next cycle runs it. -/

namespace Sys2Proof.Machine

/-- Decode and execute of a fetched word (R90, R100): an unknown word is an error that names the word and
the address it was fetched from. -/
def State.executeWord (s : State) (w : Word) : Result :=
  match decode s.cfg.profile w with
  | .ok i => exec i s
  | .error _ => s.raise .unknownOpcode w

/-- Fetch, decode, execute for an engine that is Running (R88, R100); a fetch fault carries no word. -/
def State.runCycle (s : State) : Result :=
  match s.fetch with
  | some w => s.executeWord w
  | none => .next (s.haltWith .outOfBoundsAccess s.pc none)

/-- The cycle, enabled only when the engine is Running (R87, R95). -/
def cycle (s : State) : Result :=
  match s.run with
  | .ready => .fault .engineReady
  | .running => s.runCycle
  | .halted => .fault .engineHalted

/-- What one event does to the machine: a cycle, or a host action between two cycles (R218). -/
def takeEvent (e : Event) (s : State) : Result :=
  match e with
  | .cycle => cycle s
  | .host a => .next (State.hostAct a s)

/-- The next event of the schedule. With nothing scheduled the engine runs cycles (log entry 3). -/
def nextEvent (s : State) : Result :=
  match s.schedule with
  | [] => takeEvent .cycle s
  | e :: rest => takeEvent e { s with schedule := rest }

/-- Is the event a host action? -/
def isHostEvent : Event → Bool
  | .cycle => false
  | .host _ => true

/-- Where an instruction can be placed for the next fetch: PC, or the entry point 0x200 (R234) when no
word can be fetched at PC (R88). -/
def State.placementPc (s : State) : Word := if s.pc.toNat + 1 ≤ 0xFFF then s.pc else BitVec.ofNat 16 progBase

/-- `s` with the one instruction word stored big-endian where the next fetch reads, the engine Running
with no halt record, and no host action due before its next cycle. It stands for loading a program
(R232; log entry 9). -/
def State.placeWord (s : State) (w : Word) : State :=
  let a := s.placementPc
  { s with
    pc := a
    mem := (s.mem.write a.toNat (highByte w)).write (a.toNat + 1) (lowByte w)
    run := .running
    halt := none
    schedule := s.schedule.dropWhile isHostEvent }

end Sys2Proof.Machine
end

