-- ==== Sys2Proof/Safety.lean ====
section
/-! DEFINITION. The terms the claims are written in: the invariant of the machine, and what a step changes
and leaves alone. -/

namespace Sys2Proof.Machine

/-! ## The invariant -/

/-- The stack holds at most STACK_DEPTH return addresses (R30). -/
abbrev State.StackBounded (s : State) : Prop := s.stack.length ≤ s.cfg.stackDepth

/-- There is a halt record exactly when the engine is Halted (R36). -/
abbrev State.HaltRecorded (s : State) : Prop := s.run = .halted ↔ s.halt.isSome = true

/-- PC never exceeds 0x10FE (R25), and no return address exceeds 0x1000, what a CALL at the last
fetchable address pushes (R132). -/
abbrev State.PcBounded (s : State) : Prop := s.pc.toNat ≤ 0x10FE ∧ ∀ a ∈ s.stack, a.toNat ≤ 0x1000

/-- "In the minimal profile the stack stays empty for the whole run" (R30). -/
abbrev State.MinimalStackEmpty (s : State) : Prop := s.cfg.profile = .minimal → s.stack = []

/-- What every step keeps. -/
abbrev State.Inv (s : State) : Prop :=
  s.mem.wf ∧ s.StackBounded ∧ s.HaltRecorded ∧ s.PcBounded ∧ s.MinimalStackEmpty

/-! ## What changes -/

/-- A part of the state that an instruction may write, PC apart. -/
inductive Part where
  | reg (r : Nibble)
  | index
  | stack
  | byte (a : Nat)
  | pixel (x y : Nat)
  | dirty
  | delay
  | sound
  | oracle

/-- Every part of the state outside `may` is in `t` what it is in `s`: registers, I, stack, every byte of
memory and every pixel by its own read, dirty bit, timers, oracle counter; and the keypad, run state,
halt record, configuration and schedule, which no instruction that completes writes. PC may differ. -/
def State.ChangesOnly (s t : State) (may : Part → Prop) : Prop :=
  (∀ r, ¬ may (.reg r) → t.reg r = s.reg r) ∧
  (¬ may .index → t.i = s.i) ∧
  (¬ may .stack → t.stack = s.stack) ∧
  (∀ a, ¬ may (.byte a) → t.mem.read a = s.mem.read a) ∧
  (∀ x y, ¬ may (.pixel x y) → t.disp.pixel x y = s.disp.pixel x y) ∧
  (¬ may .dirty → t.dirty = s.dirty) ∧
  (¬ may .delay → t.dt = s.dt) ∧
  (¬ may .sound → t.st = s.st) ∧
  (¬ may .oracle → t.oracle = s.oracle) ∧
  t.key = s.key ∧ t.run = s.run ∧ t.halt = s.halt ∧ t.cfg = s.cfg ∧ t.schedule = s.schedule

/-- The engine has halted in `t` with error `r`, and every component but the run state and the halt
record is what it was in `s`, the state before the cycle (R96). -/
def State.HaltsAs (s t : State) (r : HaltReason) (w : Option Word) : Prop :=
  t.run = .halted ∧ t.halt = some ⟨r, s.pc, w⟩ ∧ { t with run := s.run, halt := s.halt } = s

/-! ## Who acts next -/

/-- The next event is a cycle of the engine, not a host action (R218). -/
def State.CycleDue (s : State) : Prop := ∀ a rest, s.schedule ≠ .host a :: rest

/-- The state once the event that is due has been taken off the schedule. -/
def State.dequeue (s : State) : State := { s with schedule := s.schedule.tail }

/-! ## Runs (R102, R218, R240)

An infinite schedule is a function, so it stands beside the state and not in it. -/

/-- WAITKEY holds: it is the instruction at PC, and no key is down (R97, R194). -/
def State.Holding (s : State) : Prop :=
  s.run = .running ∧ (∃ w x, s.fetch = some w ∧ decode s.cfg.profile w = .ok (.waitKey x)) ∧
    ∀ k : Fin 16, s.key[k] = false

/-- `states` is the infinite execution of the machine under `events` (R102, R218). -/
def IsExecution (events : Nat → Event) (states : Nat → State) : Prop :=
  ∀ n, takeEvent (events n) (states n) = .next (states (n + 1))

/-- The fairness of R240, "the only timing assumption a claim may make", as the weak fairness of D38: if from
some point on the engine stays Running and does not hold, cycles happen infinitely often. What went before
that point, Ready or a hold, does not matter. -/
def FairCycles (events : Nat → Event) (states : Nat → State) : Prop :=
  ∀ k, (∀ n, k ≤ n → (states n).run = .running ∧ ¬ (states n).Holding) → ∀ n, ∃ m, n ≤ m ∧ events m = .cycle

/-- Ticks are taken infinitely often: what a claim that rests on a timer reaching 0 "also needs" (R240). -/
def FairTicks (events : Nat → Event) : Prop := ∀ n, ∃ m, n ≤ m ∧ events m = .host .tick

/-- A run ends when the engine reaches Halted, and its final state is what is observed of it (R102). -/
def State.RunEnded (s : State) : Prop := s.run = .halted

end Sys2Proof.Machine
end

