-- ==== Sys2Proof/Certificates/Slice0/Obligations.lean ====
section
/-! DEFINITION. The statements for the provers, made from the numbered rules of spec/. -/

open Sys2Proof
open Sys2Proof.Machine

/-! ## Terms of the statements -/

namespace Sys2Proof.Claims

/-- The encoding line of an instruction's rule: every word that matches decodes to the instruction with its
fields; in the minimal profile the word decodes so too when `documented`, and is unknown otherwise. -/
def EncodedAs (pattern mask : Word) (documented : Bool) (i : Word → Instr) : Prop :=
  ∀ w : Word, w &&& mask = pattern →
    decode .standard w = .ok (i w) ∧
    decode .minimal w = if documented then .ok (i w) else .error (.unknownOpcode w)

/-- The word in memory at PC decodes to `i` (R88, R90). -/
def Fetches (s : State) (i : Instr) : Prop :=
  s.pc.toNat + 1 ≤ 0xFFF ∧
    decode s.cfg.profile (bigEndian (s.mem.read s.pc.toNat) (s.mem.read (s.pc.toNat + 1))) = .ok i

/-- The conditions of R201 under which an instruction's own check fails. -/
def OutOfBounds (s : State) : Instr → Prop
  | .draw _ _ n => 1 ≤ n.toNat ∧ s.i.toNat + n.toNat - 1 > 0xFFF
  | .bcd _ => s.i.toNat + 2 > 0xFFF
  | .store x => s.i.toNat + x.toNat > 0xFFF
  | .load x => s.i.toNat + x.toNat > 0xFFF
  | .font x => (s.reg x).toNat > 0xF
  | .skipKey x => (s.reg x).toNat > 0xF
  | .skipNkey x => (s.reg x).toNat > 0xF
  | _ => False

/-- The instructions whose PC is not the advance or a skip's second advance (R92). -/
def AssignsPc : Instr → Prop
  | .jump _ => True
  | .call _ => True
  | .ret => True
  | .jumpV0 _ => True
  | _ => False

/-- The six conditional skips (R133-R136, R188, R189). -/
def IsSkip : Instr → Prop
  | .skipEqImm _ _ => True
  | .skipNeImm _ _ => True
  | .skipEqReg _ _ => True
  | .skipNeReg _ _ => True
  | .skipKey _ => True
  | .skipNkey _ => True
  | _ => False

/-- The writers of I (R22). -/
def WritesIndex (cfg : Config) : Instr → Prop
  | .setI _ => True
  | .addI _ => True
  | .font _ => True
  | .store _ => cfg.loadStoreI = .increment
  | .load _ => cfg.loadStoreI = .increment
  | _ => False

/-- The writers of the call stack (R30). -/
def WritesStack : Instr → Prop
  | .call _ => True
  | .ret => True
  | _ => False

/-- The instructions that write memory (R57). -/
def WritesMemory : Instr → Prop
  | .bcd _ => True
  | .store _ => True
  | _ => False

/-- The writers of the display (R32). -/
def WritesDisplay : Instr → Prop
  | .clear => True
  | .draw _ _ _ => True
  | _ => False

/-- The writers of VF (R26): as a flag, or as the destination register. -/
def WritesVf (cfg : Config) : Instr → Prop
  | .draw _ _ _ => True
  | .addReg _ _ => True
  | .subReg _ _ => True
  | .subn _ _ => True
  | .shr _ _ => True
  | .shl _ _ => True
  | .orReg x _ => cfg.logicVfReset = true ∨ x = 0xF#4
  | .andReg x _ => cfg.logicVfReset = true ∨ x = 0xF#4
  | .xorReg x _ => cfg.logicVfReset = true ∨ x = 0xF#4
  | .setImm x _ => x = 0xF#4
  | .addImm x _ => x = 0xF#4
  | .setReg x _ => x = 0xF#4
  | .rand x _ => x = 0xF#4
  | .getDt x => x = 0xF#4
  | .waitKey x => x = 0xF#4
  | .load x => x = 0xF#4
  | _ => False

/-- The value DRAW takes a coordinate from (R118): 0 when the register is VF and VF is reset first. -/
def drawValue (s : State) (r : Nibble) : Nat :=
  if s.cfg.drawVfOrder = .vfFirst ∧ r = 0xF#4 then 0 else (s.reg r).toNat

/-- The sprite bit that an N-row sprite at I with origin (ox, oy) puts over the display cell (p, q): row
q - oy, column p - ox, most significant bit leftmost, clipped at 64 and 32 (R119-R121). -/
def spriteOn (s : State) (ox oy n p q : Nat) : Bool :=
  decide (ox ≤ p ∧ p < ox + 8 ∧ p < 64 ∧ oy ≤ q ∧ q < oy + n ∧ q < 32) &&
    (s.mem.read (s.i.toNat + (q - oy))).getLsbD (7 - (p - ox))

/-- DRAW VX, VY takes the same origin in `t` as in `s` (R118, R119). -/
def SameOrigin (s t : State) (x y : Nibble) : Prop :=
  drawValue t x % 64 = drawValue s x % 64 ∧ drawValue t y % 32 = drawValue s y % 32

/-- Every sprite byte address of DRAW lies in memory (R117). -/
def SpriteInBounds (s : State) (n : Nibble) : Prop := n.toNat = 0 ∨ s.i.toNat + n.toNat - 1 ≤ 0xFFF

/-- I after STORE VX or LOAD VX (R174, R175). -/
def IndexAfter (s t : State) (x : Nibble) : Prop :=
  (s.cfg.loadStoreI = .unchanged → t.i = s.i) ∧
  (s.cfg.loadStoreI = .increment → t.i.toNat = (s.i.toNat + x.toNat + 1) % 65536)

/-- When a host action is enabled (R218). -/
def Enabled (s : State) : HostAction → Prop
  | .loadRom _ => s.run = .ready
  | .stop => s.run ≠ .halted
  | .setKey _ _ => s.run ≠ .halted
  | .tick => s.run = .running
  | .present => True

/-- A taken skip leaves PC at pc_instr + 4, any other at pc_instr + 2, and changes nothing else (R93). -/
def SkipsWhen (s t : State) (taken : Prop) : Prop :=
  (taken → t.pc = s.pc + 4#16) ∧ (¬ taken → t.pc = s.pc + 2#16) ∧ s.ChangesOnly t (fun _ => False)

end Sys2Proof.Claims

open Sys2Proof.Claims

/-! ## Encoding and decoding -/

/-- Decoding the word of an instruction of the profile gives it back, with every operand (R66, R70, R75). -/
def Obligations.DecodeInvertsEncode : Prop :=
  ∀ (p : Profile) (i : Instr), wellFormed p i = true → decode p (encode i) = .ok i

/-- A word that decodes is the word of the instruction it decodes to: no two words share a meaning and no
bit of a word is ignored (R70, R74, R76). -/
def Obligations.EncodeInvertsDecode : Prop :=
  ∀ (p : Profile) (w : Word) (i : Instr), decode p w = .ok i → encode i = w ∧ wellFormed p i = true

/-- R75, the profile filter. -/
def Obligations.ProfilesAcceptExactlyTheirRows : Prop :=
  ∀ w : Word,
    ((∃ i, decode .minimal w = .ok i) ↔
      w = 0x00E0#16 ∨ family w = 0x1#4 ∨ family w = 0x6#4 ∨ family w = 0x7#4 ∨ family w = 0xA#4 ∨ family w = 0xD#4) ∧
    ((∃ i, decode .standard w = .ok i) ↔ ∃ r ∈ opcodeTable, r.covers w = true) ∧
    (∀ p, (∀ i, decode p w ≠ .ok i) → decode p w = .error (.unknownOpcode w)) ∧
    (∀ i, decode .minimal w = .ok i → decode .standard w = .ok i)

/-- "Every word matches at most one row of opcode_table.json" (R76). -/
def Obligations.OpcodeRowsAreDisjoint : Prop :=
  ∀ (w : Word) (r r' : OpcodeRow), r ∈ opcodeTable → r' ∈ opcodeTable →
    r.covers w = true → r'.covers w = true → r = r'

/-- R67, the field extractors. -/
def Obligations.FieldExtractorsShiftAndMask : Prop :=
  ∀ w : Word,
    (family w).setWidth 16 = w >>> 12 ∧
    (fieldX w).setWidth 16 = (w >>> 8) &&& 0xF#16 ∧
    (fieldY w).setWidth 16 = (w >>> 4) &&& 0xF#16 ∧
    (fieldN w).setWidth 16 = w &&& 0xF#16 ∧
    (fieldNN w).setWidth 16 = w &&& 0xFF#16 ∧
    (fieldNNN w).setWidth 16 = w &&& 0xFFF#16

/-- R71 and R78: family 0x0 is decoded on the whole word. -/
def Obligations.FamilyZeroIsDecodedOnTheWholeWord : Prop :=
  ∀ (p : Profile) (w : Word), family w = 0x0#4 →
    (w = 0x00E0#16 → decode p w = .ok .clear) ∧
    (w = 0x00EE#16 → p = .standard → decode p w = .ok .ret) ∧
    (w ≠ 0x00E0#16 → (w ≠ 0x00EE#16 ∨ p = .minimal) → decode p w = .error (.unknownOpcode w))

/-- The unassigned words of families 5, 8, 9, E and F are unknown (R72-R74). -/
def Obligations.UnassignedSubOpcodesAreUnknown : Prop :=
  ∀ (p : Profile) (w : Word),
    ((family w = 0x5#4 ∨ family w = 0x9#4) ∧ fieldN w ≠ 0x0#4) ∨
    (family w = 0x8#4 ∧ (fieldN w).toNat ∈ [0x8, 0x9, 0xA, 0xB, 0xC, 0xD, 0xF]) ∨
    (family w = 0xE#4 ∧ (fieldNN w).toNat ∉ [0x9E, 0xA1]) ∨
    (family w = 0xF#4 ∧ (fieldNN w).toNat ∉ [0x07, 0x0A, 0x15, 0x18, 0x1E, 0x29, 0x33, 0x55, 0x65]) →
    decode p w = .error (.unknownOpcode w)

/-- Words written out from the encodings decode to the instruction they stand for (R70, R80). -/
def Obligations.WrittenOutWordsDecode : Prop :=
  decode .minimal 0b1101_0001_0010_0011#16 = .ok (.draw 1#4 2#4 3#4) ∧
  decode .standard 0b0000_0000_1110_1110#16 = .ok .ret ∧
  decode .standard 0b0101_0001_0010_0000#16 = .ok (.skipEqReg 1#4 2#4) ∧
  decode .standard 0b1000_1010_1011_1110#16 = .ok (.shl 0xA#4 0xB#4) ∧
  decode .standard 0b1111_0010_0110_0101#16 = .ok (.load 2#4) ∧
  decode .standard 0b1110_0001_1010_0001#16 = .ok (.skipNkey 1#4)

/-! ## The engine -/

/-- The step at a state whose next event is a cycle is `exec` of the instruction in memory at PC, applied to
that state; the step adds nothing around `exec` but taking the cycle off the schedule (R87, R91, R100). -/
def Obligations.StepRunsTheDecodedInstruction : Prop :=
  ∀ (s : State) (i : Instr), s.CycleDue → s.run = .running → Fetches s i →
    step s = exec i s.dequeue ∧ (s.schedule = [] → s.dequeue = s)

/-- R88, fetch: two bytes, big-endian, at any address up to 0xFFE, and the fetch fault above it. -/
def Obligations.FetchIsBigEndianUpToFFE : Prop :=
  ∀ s : State,
    (s.pc.toNat ≤ 0xFFE → ∃ w, s.fetch = some w ∧
      w.toNat = (s.mem.read s.pc.toNat).toNat * 256 + (s.mem.read (s.pc.toNat + 1)).toNat) ∧
    (0xFFF ≤ s.pc.toNat → s.fetch = none ∧
      (s.CycleDue → s.run = .running → ∃ t, step s = .next t ∧ s.dequeue.HaltsAs t .outOfBoundsAccess none))

/-- R90: an unknown word halts the engine with the word and the address it was fetched from. -/
def Obligations.UnknownWordHaltsWithItsAddress : Prop :=
  ∀ (s : State) (w : Word), s.CycleDue → s.run = .running → s.fetch = some w →
    (∀ i, decode s.cfg.profile w ≠ .ok i) →
    ∃ t, step s = .next t ∧ s.dequeue.HaltsAs t .unknownOpcode (some w)

/-- R95: in Ready and in Halted the engine has no step. -/
def Obligations.NoCycleUnlessRunning : Prop :=
  ∀ s : State, s.CycleDue → s.run = .ready ∨ s.run = .halted → ∀ t, step s ≠ .next t

/-- R96: a cycle that ends in an error discards every effect and records the error; one that does not leaves
the engine Running with its halt record. -/
def Obligations.ErrorsDiscardTheCycle : Prop :=
  ∀ s t : State, s.CycleDue → step s = .next t →
    (t.run = .halted → ∃ r w, r ≠ .stopped ∧ r ≠ .romTooLarge ∧ s.dequeue.HaltsAs t r w ∧
      (w = none ↔ 0xFFF ≤ s.pc.toNat) ∧ (s.pc.toNat ≤ 0xFFE → w = s.fetch)) ∧
    (t.run ≠ .halted → t.run = .running ∧ t.halt = s.halt)

/-- R201: OutOfBoundsAccess is raised by exactly the conditions listed. -/
def Obligations.OutOfBoundsRaisedExactlyWhen : Prop :=
  ∀ s : State, s.CycleDue → s.run = .running →
    ((∃ t w, step s = .next t ∧ s.dequeue.HaltsAs t .outOfBoundsAccess w) ↔
      0xFFF ≤ s.pc.toNat ∨ ∃ i, Fetches s i ∧ OutOfBounds s i)

/-- R203 and R204: the stack errors are raised by CALL on a full stack and RETURN on an empty one only. -/
def Obligations.StackErrorsRaisedExactlyWhen : Prop :=
  ∀ s : State, s.CycleDue → s.run = .running →
    ((∃ t w, step s = .next t ∧ s.dequeue.HaltsAs t .stackOverflow w) ↔
      ∃ nnn, Fetches s (.call nnn) ∧ s.stack.length = s.cfg.stackDepth) ∧
    ((∃ t w, step s = .next t ∧ s.dequeue.HaltsAs t .stackUnderflow w) ↔ Fetches s .ret ∧ s.stack = [])

/-- R92: the PC after an instruction that completes. The last case of the second clause is WAITKEY's hold,
which the model gives as an unchanged state (R97; log entry 4). -/
def Obligations.PcAfterCompletion : Prop :=
  ∀ (i : Instr) (s t : State), s.run = .running → exec i s = .next t → t.run = .running →
    (∀ nnn, i = .jump nnn → t.pc.toNat = nnn.toNat) ∧
    (∀ nnn, i = .call nnn → t.pc.toNat = nnn.toNat) ∧
    (i = .ret → s.stack.getLast? = some t.pc) ∧
    (∀ nnn, i = .jumpV0 nnn → ∃ r, t.pc.toNat = nnn.toNat + (s.reg r).toNat) ∧
    (¬ AssignsPc i → t.pc = s.pc + 2#16 ∨ (IsSkip i ∧ t.pc = s.pc + 4#16) ∨ (∃ x, i = .waitKey x ∧ t = s))

/-- Every instruction of the table answers a next state from every state: none stops the machine (R94, R96,
R194). An error is a next state with the engine Halted; a hold is the same state (log entries 4, 7). -/
def Obligations.EveryInstructionAnswersANextState : Prop :=
  ∀ (i : Instr) (s : State), ∃ t, exec i s = .next t ∧ t.cfg = s.cfg ∧ t.schedule = s.schedule ∧ t.key = s.key ∧
    (t.run = s.run ∨ t.run = .halted)

/-! ## Invariants and writers -/

/-- Every step keeps the invariant: canonical memory inside the 4096 bytes (R45), the stack bound (R30), the
halt record (R36), the PC bound (R25) and the empty stack of the minimal profile (R30). -/
def Obligations.StepKeepsTheMachineSound : Prop :=
  ∀ s t : State, s.Inv → step s = .next t → t.Inv

/-- The state after reset meets the invariant. -/
def Obligations.ResetIsSound : Prop := State.reset.Inv

/-- R41: the values after construction, for every configuration and every FILL. -/
def Obligations.ConstructionGivesResetValues : Prop :=
  ∀ (cfg : Config) (fill : Nat → Byte),
    let s := State.construct cfg fill
    (∀ r, s.reg r = 0#8) ∧ s.i = 0#16 ∧ s.pc = 0x200#16 ∧ s.stack = [] ∧
    (∀ a, 0x050 ≤ a → a ≤ 0x09F → s.mem.read a = fontTable.getD (a - 0x050) 0#8) ∧
    (∀ a, a < 4096 → (a < 0x050 ∨ 0x09F < a) → s.mem.read a = fill a) ∧
    (∀ x y, s.disp.pixel x y = false) ∧ (∀ k : Fin 16, s.key[k] = false) ∧
    s.dt = 0#8 ∧ s.st = 0#8 ∧ s.run = .ready ∧ s.halt = none ∧ s.dirty = false ∧ s.cfg = cfg ∧
    s.Inv

/-- The font table in memory after reset, glyph by glyph (R55, whose bytes the spec gives from general
knowledge). -/
def Obligations.FontTableAfterReset : Prop :=
  State.reset.mem.readSpan 0x050 5 = [0xF0, 0x90, 0x90, 0x90, 0xF0] ∧
  State.reset.mem.readSpan 0x055 5 = [0x20, 0x60, 0x20, 0x20, 0x70] ∧
  State.reset.mem.readSpan 0x05A 5 = [0xF0, 0x10, 0xF0, 0x80, 0xF0] ∧
  State.reset.mem.readSpan 0x05F 5 = [0xF0, 0x10, 0xF0, 0x10, 0xF0] ∧
  State.reset.mem.readSpan 0x064 5 = [0x90, 0x90, 0xF0, 0x10, 0x10] ∧
  State.reset.mem.readSpan 0x069 5 = [0xF0, 0x80, 0xF0, 0x10, 0xF0] ∧
  State.reset.mem.readSpan 0x06E 5 = [0xF0, 0x80, 0xF0, 0x90, 0xF0] ∧
  State.reset.mem.readSpan 0x073 5 = [0xF0, 0x10, 0x20, 0x40, 0x40] ∧
  State.reset.mem.readSpan 0x078 5 = [0xF0, 0x90, 0xF0, 0x90, 0xF0] ∧
  State.reset.mem.readSpan 0x07D 5 = [0xF0, 0x90, 0xF0, 0x10, 0xF0] ∧
  State.reset.mem.readSpan 0x082 5 = [0xF0, 0x90, 0xF0, 0x90, 0x90] ∧
  State.reset.mem.readSpan 0x087 5 = [0xE0, 0x90, 0xE0, 0x90, 0xE0] ∧
  State.reset.mem.readSpan 0x08C 5 = [0xF0, 0x80, 0x80, 0x80, 0xF0] ∧
  State.reset.mem.readSpan 0x091 5 = [0xE0, 0x90, 0x90, 0x90, 0xE0] ∧
  State.reset.mem.readSpan 0x096 5 = [0xF0, 0x80, 0xF0, 0x80, 0xF0] ∧
  State.reset.mem.readSpan 0x09B 5 = [0xF0, 0x80, 0xF0, 0x80, 0x80]

/-- The configuration is what "no step changes" (R40), and "only the host writes" the keypad state, with SetKey
(R33, R217). -/
def Obligations.StepKeepsConfigurationAndKeypad : Prop :=
  ∀ s t : State, step s = .next t →
    t.cfg = s.cfg ∧ (t.key ≠ s.key → ∃ k b rest, s.schedule = .host (.setKey k b) :: rest)

/-- Which instructions write I, the stack, memory, the display, the dirty bit and the timers (R22, R30, R32,
R34, R35, R37, R57). The last clause, that only RAND and WAITKEY move the counter of answers taken, is about the
model's own counter and is the model's choice (log entry 5). -/
def Obligations.OnlyNamedInstructionsWriteEachPart : Prop :=
  ∀ (i : Instr) (s t : State), exec i s = .next t →
    (t.i ≠ s.i → WritesIndex s.cfg i) ∧
    (t.stack ≠ s.stack → WritesStack i) ∧
    (t.mem ≠ s.mem → WritesMemory i) ∧
    (t.disp ≠ s.disp → WritesDisplay i) ∧
    (t.dirty ≠ s.dirty → WritesDisplay i) ∧
    (t.dt ≠ s.dt → ∃ x, i = .setDt x) ∧
    (t.st ≠ s.st → ∃ x, i = .setSt x) ∧
    (t.oracle ≠ s.oracle → (∃ x nn, i = .rand x nn) ∨ ∃ x, i = .waitKey x)

/-- VF is written only by the instructions R26 lists. -/
def Obligations.OnlyListedInstructionsWriteVf : Prop :=
  ∀ (i : Instr) (s t : State), exec i s = .next t → t.reg 0xF#4 ≠ s.reg 0xF#4 → WritesVf s.cfg i

/-- R101: Halted is terminal; only Present still changes anything, and only the dirty bit. -/
def Obligations.HaltedIsTerminal : Prop :=
  ∀ s t : State, s.run = .halted → step s = .next t →
    t.run = .halted ∧ t.halt = s.halt ∧ { t with dirty := s.dirty } = s.dequeue ∧
    (t.dirty ≠ s.dirty → ∃ rest, s.schedule = .host .present :: rest)

/-- R86: the transitions of the run state. The spec marks the Ready rows as its own reading (D27). -/
def Obligations.RunStateTransitions : Prop :=
  (∀ cfg fill, (State.construct cfg fill).run = .ready) ∧
  (∀ (s : State) (a : HostAction) (rest : List Event), s.schedule = .host a :: rest → ∃ t, step s = .next t ∧
    (∀ rom, s.run = .ready → a = .loadRom rom → rom.length ≤ 3584 → t.run = .running) ∧
    (∀ rom, s.run = .ready → a = .loadRom rom → 3584 < rom.length →
      t.run = .halted ∧ ∃ p, t.halt = some ⟨.romTooLarge, p, none⟩) ∧
    (s.run ≠ .halted → a = .stop → t.run = .halted ∧ ∃ p, t.halt = some ⟨.stopped, p, none⟩) ∧
    ((∀ rom, s.run = .ready → a ≠ .loadRom rom) → (s.run ≠ .halted → a ≠ .stop) → t.run = s.run)) ∧
  (∀ s t : State, s.CycleDue → step s = .next t →
    s.run = .running ∧ (t.run = .running ∨ (t.run = .halted ∧ ∃ r, t.halt = some r ∧ r.reason ≠ .stopped)))

/-! ## The host interface -/

/-- R214: Tick decrements both timers of a Running engine, saturating at 0, and changes nothing else; it does so
while WAITKEY holds too, since the engine is then Running. -/
def Obligations.TickCountsDownBothTimers : Prop :=
  ∀ (s : State) (rest : List Event), s.schedule = .host .tick :: rest → s.run = .running → ∃ t, step s = .next t ∧
    t.dt.toNat = s.dt.toNat - 1 ∧ t.st.toNat = s.st.toNat - 1 ∧ { t with dt := s.dt, st := s.st } = s.dequeue

/-- Present returns the display and clears the dirty bit, in every run state (R216). -/
def Obligations.PresentReturnsDisplayAndClearsDirty : Prop :=
  ∀ (s : State) (rest : List Event), s.schedule = .host .present :: rest → ∃ t, step s = .next t ∧
    (∀ x y, s.present.1.pixel x y = s.disp.pixel x y) ∧ t.dirty = false ∧ { t with dirty := s.dirty } = s.dequeue

/-- SetKey writes one key and nothing else, in Ready and Running (R217). -/
def Obligations.SetKeyWritesOneKey : Prop :=
  ∀ (s : State) (k : Nibble) (b : Bool) (rest : List Event), s.schedule = .host (.setKey k b) :: rest →
    s.run ≠ .halted → ∃ t, step s = .next t ∧ { t with key := s.key } = s.dequeue ∧
      ∀ j : Fin 16, t.key[j] = if j.val = k.toNat then b else s.key[j]

/-- R98: Stop halts a Ready or Running engine, records (Stopped, PC, none), and changes nothing else. -/
def Obligations.StopHaltsAndRecordsPc : Prop :=
  ∀ (s : State) (rest : List Event), s.schedule = .host .stop :: rest → s.run ≠ .halted → ∃ t, step s = .next t ∧
    s.dequeue.HaltsAs t .stopped none

/-- R232 and R233: LoadRom in Ready copies the ROM to 0x200 and starts the engine, or, when the ROM is longer
than 3584 bytes, writes no memory and halts with RomTooLarge. -/
def Obligations.LoadRomCopiesAndStartsOrHalts : Prop :=
  ∀ (s : State) (rom : List Byte) (rest : List Event), s.mem.wf → s.schedule = .host (.loadRom rom) :: rest →
    s.run = .ready → ∃ t, step s = .next t ∧
      (rom.length ≤ 3584 →
        t.run = .running ∧
        (∀ j, j < rom.length → t.mem.read (0x200 + j) = rom.getD j 0#8) ∧
        (∀ a, (a < 0x200 ∨ 0x200 + rom.length ≤ a) → t.mem.read a = s.mem.read a) ∧
        { t with run := s.run, mem := s.mem } = s.dequeue) ∧
      (3584 < rom.length →
        t.run = .halted ∧ t.halt = some ⟨.romTooLarge, 0x200#16, none⟩ ∧
        { t with run := s.run, halt := s.halt } = s.dequeue)

/-- A host action that is not enabled (R214, R217, R98, R232) has no effect but that its event is over: what the
model reads into "enabled" (log entry 8). -/
def Obligations.ActionsNotEnabledHaveNoEffect : Prop :=
  ∀ (s : State) (a : HostAction) (rest : List Event), s.schedule = .host a :: rest → ¬ Enabled s a →
    step s = .next s.dequeue

/-! ## The six documented operations -/

/-- R111, CLEAR. -/
def Obligations.ClearTurnsEveryPixelOff : Prop :=
  EncodedAs 0x00E0 0xFFFF true (fun _ => .clear) ∧
  ∀ s : State, ∃ t, exec .clear s = .next t ∧ (∀ x y, t.disp.pixel x y = false) ∧ t.dirty = true ∧
    t.pc = s.pc + 2#16 ∧ s.ChangesOnly t (fun p => p = .dirty ∨ ∃ x y, p = .pixel x y)

/-- R112, JUMP NNN. -/
def Obligations.JumpSetsPcExactly : Prop :=
  EncodedAs 0x1000 0xF000 true (fun w => .jump (fieldNNN w)) ∧
  ∀ (nnn : Addr) (s : State), ∃ t, exec (.jump nnn) s = .next t ∧ t.pc.toNat = nnn.toNat ∧
    s.ChangesOnly t (fun _ => False)

/-- R113, SET VX, NN. -/
def Obligations.SetImmediateWritesRegister : Prop :=
  EncodedAs 0x6000 0xF000 true (fun w => .setImm (fieldX w) (fieldNN w)) ∧
  ∀ (x : Nibble) (nn : Byte) (s : State), ∃ t, exec (.setImm x nn) s = .next t ∧ t.reg x = nn ∧
    t.pc = s.pc + 2#16 ∧ s.ChangesOnly t (fun p => p = .reg x)

/-- R114, ADD VX, NN. -/
def Obligations.AddImmediateWrapsAndLeavesVf : Prop :=
  EncodedAs 0x7000 0xF000 true (fun w => .addImm (fieldX w) (fieldNN w)) ∧
  ∀ (x : Nibble) (nn : Byte) (s : State), ∃ t, exec (.addImm x nn) s = .next t ∧
    (t.reg x).toNat = ((s.reg x).toNat + nn.toNat) % 256 ∧ (x ≠ 0xF#4 → t.reg 0xF#4 = s.reg 0xF#4) ∧
    t.pc = s.pc + 2#16 ∧ s.ChangesOnly t (fun p => p = .reg x)

/-- R115, SET I, NNN. -/
def Obligations.SetIndexWritesAddress : Prop :=
  EncodedAs 0xA000 0xF000 true (fun w => .setI (fieldNNN w)) ∧
  ∀ (nnn : Addr) (s : State), ∃ t, exec (.setI nnn) s = .next t ∧ t.i.toNat = nnn.toNat ∧
    t.pc = s.pc + 2#16 ∧ s.ChangesOnly t (fun p => p = .index)

/-- R116 with its steps R118-R123: DRAW XORs the sprite into the display pixel by pixel, clipped, reports a
collision in VF, and marks the display dirty. -/
def Obligations.DrawXorsSpriteAndReportsCollision : Prop :=
  EncodedAs 0xD000 0xF000 true (fun w => .draw (fieldX w) (fieldY w) (fieldN w)) ∧
  ∀ (x y n : Nibble) (s : State),
    let on := spriteOn s (drawValue s x % 64) (drawValue s y % 32) n.toNat
    (¬ SpriteInBounds s n → ∃ t, exec (.draw x y n) s = .next t ∧
      s.HaltsAs t .outOfBoundsAccess (some (encode (.draw x y n)))) ∧
    (SpriteInBounds s n → ∃ t, exec (.draw x y n) s = .next t ∧
      (∀ p q, p < 64 → q < 32 → t.disp.pixel p q = (s.disp.pixel p q ^^ on p q)) ∧
      ((∃ p q, p < 64 ∧ q < 32 ∧ s.disp.pixel p q = true ∧ on p q = true) → t.reg 0xF#4 = 1#8) ∧
      ((¬ ∃ p q, p < 64 ∧ q < 32 ∧ s.disp.pixel p q = true ∧ on p q = true) → t.reg 0xF#4 = 0#8) ∧
      t.dirty = true ∧ t.pc = s.pc + 2#16 ∧
      s.ChangesOnly t (fun p => p = .reg 0xF#4 ∨ p = .dirty ∨ ∃ a b, p = .pixel a b ∧ on a b = true))

/-- R117: all N sprite addresses are checked before any effect, whatever the bottom edge would clip. The spec
marks the check of all rows as its own choice (D12). -/
def Obligations.DrawChecksAllRowsFirst : Prop :=
  ∀ (x y n : Nibble) (s : State),
    ((∃ r, r < n.toNat ∧ 0xFFF < s.i.toNat + r) →
      ∃ t, exec (.draw x y n) s = .next t ∧ s.HaltsAs t .outOfBoundsAccess (some (encode (.draw x y n)))) ∧
    ((∀ r, r < n.toNat → s.i.toNat + r ≤ 0xFFF) → ∃ t, exec (.draw x y n) s = .next t ∧ t.run = s.run ∧ t.halt = s.halt)

/-- "The same sprite drawn twice at the same origin restores the display" (R124). That the flag of the second
draw is 1 exactly when a drawn bit lies over a pixel that was off before the first is the model's reading of R116
and R122 (log entry 12), against R124's remark that any drawn bit is enough. The origin is the same at both draws
unless VF is a coordinate and is read before its reset; then it may move, since the first draw writes VF (R118). -/
def Obligations.DrawingTwiceRestoresTheDisplay : Prop :=
  ∀ (x y n : Nibble) (s : State), SpriteInBounds s n →
    ∃ t u, exec (.draw x y n) s = .next t ∧ exec (.draw x y n) t = .next u ∧
      (s.cfg.drawVfOrder = .vfFirst ∨ (x ≠ 0xF#4 ∧ y ≠ 0xF#4) → SameOrigin s t x y) ∧
      (SameOrigin s t x y → u.disp = s.disp ∧
        (u.reg 0xF#4 = 1#8 ↔ ∃ p q, p < 64 ∧ q < 32 ∧ s.disp.pixel p q = false ∧
          spriteOn s (drawValue s x % 64) (drawValue s y % 32) n.toNat p q = true))

/-! ## Control flow -/

/-- R131, RETURN. -/
def Obligations.ReturnPopsThePc : Prop :=
  EncodedAs 0x00EE 0xFFFF false (fun _ => .ret) ∧
  ∀ s : State,
    (∀ (rest : List Word) (a : Word), s.stack = rest ++ [a] → ∃ t, exec .ret s = .next t ∧ t.pc = a ∧ t.stack = rest ∧
      s.ChangesOnly t (fun p => p = .stack)) ∧
    (s.stack = [] → ∃ t, exec .ret s = .next t ∧ s.HaltsAs t .stackUnderflow (some 0x00EE#16))

/-- R132, CALL NNN. -/
def Obligations.CallPushesTheReturnAddress : Prop :=
  EncodedAs 0x2000 0xF000 false (fun w => .call (fieldNNN w)) ∧
  ∀ (nnn : Addr) (s : State),
    (s.stack.length ≠ s.cfg.stackDepth → ∃ t, exec (.call nnn) s = .next t ∧ t.pc.toNat = nnn.toNat ∧
      t.stack = s.stack ++ [s.pc + 2#16] ∧ s.ChangesOnly t (fun p => p = .stack)) ∧
    (s.stack.length = s.cfg.stackDepth → ∃ t, exec (.call nnn) s = .next t ∧
      s.HaltsAs t .stackOverflow (some (encode (.call nnn))))

/-- R133 and R134, the skips that compare with an immediate. -/
def Obligations.ImmediateSkipsCompare : Prop :=
  EncodedAs 0x3000 0xF000 false (fun w => .skipEqImm (fieldX w) (fieldNN w)) ∧
  EncodedAs 0x4000 0xF000 false (fun w => .skipNeImm (fieldX w) (fieldNN w)) ∧
  ∀ (x : Nibble) (nn : Byte) (s : State),
    (∃ t, exec (.skipEqImm x nn) s = .next t ∧ SkipsWhen s t (s.reg x = nn)) ∧
    (∃ t, exec (.skipNeImm x nn) s = .next t ∧ SkipsWhen s t (s.reg x ≠ nn))

/-- R135 and R136, the skips that compare two registers. -/
def Obligations.RegisterSkipsCompare : Prop :=
  EncodedAs 0x5000 0xF00F false (fun w => .skipEqReg (fieldX w) (fieldY w)) ∧
  EncodedAs 0x9000 0xF00F false (fun w => .skipNeReg (fieldX w) (fieldY w)) ∧
  (∀ w, (family w = 0x5#4 ∨ family w = 0x9#4) → fieldN w ≠ 0#4 → decode .standard w = .error (.unknownOpcode w)) ∧
  ∀ (x y : Nibble) (s : State),
    (∃ t, exec (.skipEqReg x y) s = .next t ∧ SkipsWhen s t (s.reg x = s.reg y)) ∧
    (∃ t, exec (.skipNeReg x y) s = .next t ∧ SkipsWhen s t (s.reg x ≠ s.reg y))

/-- R137, JUMP V0, NNN. -/
def Obligations.ComputedJumpAddsTheOffsetRegister : Prop :=
  EncodedAs 0xB000 0xF000 false (fun w => .jumpV0 (fieldNNN w)) ∧
  ∀ (nnn : Addr) (s : State), ∃ t, exec (.jumpV0 nnn) s = .next t ∧
    (s.cfg.jumpOffset = .v0 → t.pc.toNat = nnn.toNat + (s.reg 0x0#4).toNat) ∧
    (s.cfg.jumpOffset = .vx → t.pc.toNat = nnn.toNat + (s.reg (BitVec.ofNat 4 (nnn.toNat / 256))).toNat) ∧
    s.ChangesOnly t (fun _ => False)

/-! ## Register arithmetic and logic -/

/-- R152, SET VX, VY. -/
def Obligations.SetRegisterCopies : Prop :=
  EncodedAs 0x8000 0xF00F false (fun w => .setReg (fieldX w) (fieldY w)) ∧
  ∀ (x y : Nibble) (s : State), ∃ t, exec (.setReg x y) s = .next t ∧ t.reg x = s.reg y ∧ t.pc = s.pc + 2#16 ∧
    s.ChangesOnly t (fun p => p = .reg x)

/-- R153, R154 and R155: OR, AND and XOR, with the VF reset of `LOGIC_VF_RESET`. -/
def Obligations.LogicOperationsWriteResultThenResetVf : Prop :=
  EncodedAs 0x8001 0xF00F false (fun w => .orReg (fieldX w) (fieldY w)) ∧
  EncodedAs 0x8002 0xF00F false (fun w => .andReg (fieldX w) (fieldY w)) ∧
  EncodedAs 0x8003 0xF00F false (fun w => .xorReg (fieldX w) (fieldY w)) ∧
  ∀ (x y : Nibble) (s : State) (i : Instr) (r : Byte),
    ((i = .orReg x y ∧ r = s.reg x ||| s.reg y) ∨ (i = .andReg x y ∧ r = s.reg x &&& s.reg y) ∨
      (i = .xorReg x y ∧ r = s.reg x ^^^ s.reg y)) →
    ∃ t, exec i s = .next t ∧ t.pc = s.pc + 2#16 ∧
      (s.cfg.logicVfReset = false → t.reg x = r ∧ s.ChangesOnly t (fun p => p = .reg x)) ∧
      (s.cfg.logicVfReset = true → (x ≠ 0xF#4 → t.reg x = r) ∧ t.reg 0xF#4 = 0#8 ∧
        s.ChangesOnly t (fun p => p = .reg x ∨ p = .reg 0xF#4))

/-- R156, ADD VX, VY: the sum mod 256, then the carry to VF, which is what VF holds when X is F. -/
def Obligations.AddRegistersWritesSumAndCarry : Prop :=
  EncodedAs 0x8004 0xF00F false (fun w => .addReg (fieldX w) (fieldY w)) ∧
  ∀ (x y : Nibble) (s : State), ∃ t, exec (.addReg x y) s = .next t ∧
    (x ≠ 0xF#4 → (t.reg x).toNat = ((s.reg x).toNat + (s.reg y).toNat) % 256) ∧
    (t.reg 0xF#4).toNat = ((s.reg x).toNat + (s.reg y).toNat) / 256 ∧
    t.pc = s.pc + 2#16 ∧ s.ChangesOnly t (fun p => p = .reg x ∨ p = .reg 0xF#4)

/-- R157 and R159, SUB and SUBN: the difference mod 256, then NOT borrow to VF. -/
def Obligations.SubtractionsWriteDifferenceAndNotBorrow : Prop :=
  EncodedAs 0x8005 0xF00F false (fun w => .subReg (fieldX w) (fieldY w)) ∧
  EncodedAs 0x8007 0xF00F false (fun w => .subn (fieldX w) (fieldY w)) ∧
  ∀ (x y : Nibble) (s : State) (i : Instr) (a b : Nat),
    ((i = .subReg x y ∧ a = (s.reg x).toNat ∧ b = (s.reg y).toNat) ∨
      (i = .subn x y ∧ a = (s.reg y).toNat ∧ b = (s.reg x).toNat)) →
    ∃ t, exec i s = .next t ∧
      (x ≠ 0xF#4 → (t.reg x).toNat = (a + 256 - b) % 256) ∧
      (b ≤ a → t.reg 0xF#4 = 1#8) ∧ (a < b → t.reg 0xF#4 = 0#8) ∧
      t.pc = s.pc + 2#16 ∧ s.ChangesOnly t (fun p => p = .reg x ∨ p = .reg 0xF#4)

/-- R158 and R160, SHR and SHL of the register `SHIFT_SOURCE` names: the shifted byte, then the bit shifted
out to VF. -/
def Obligations.ShiftsWriteResultAndShiftedOutBit : Prop :=
  EncodedAs 0x8006 0xF00F false (fun w => .shr (fieldX w) (fieldY w)) ∧
  EncodedAs 0x800E 0xF00F false (fun w => .shl (fieldX w) (fieldY w)) ∧
  ∀ (x y : Nibble) (s : State) (src : Nat),
    ((s.cfg.shiftSource = .vx ∧ src = (s.reg x).toNat) ∨ (s.cfg.shiftSource = .vy ∧ src = (s.reg y).toNat)) →
    (∃ t, exec (.shr x y) s = .next t ∧
      (x ≠ 0xF#4 → (t.reg x).toNat = src / 2) ∧ (t.reg 0xF#4).toNat = src % 2 ∧
      t.pc = s.pc + 2#16 ∧ s.ChangesOnly t (fun p => p = .reg x ∨ p = .reg 0xF#4)) ∧
    (∃ t, exec (.shl x y) s = .next t ∧
      (x ≠ 0xF#4 → (t.reg x).toNat = src * 2 % 256) ∧ (t.reg 0xF#4).toNat = src / 128 ∧
      t.pc = s.pc + 2#16 ∧ s.ChangesOnly t (fun p => p = .reg x ∨ p = .reg 0xF#4))

/-! ## Index, font, BCD, register load and store -/

/-- R171, ADD I, VX. -/
def Obligations.AddIndexWrapsAtSixteenBits : Prop :=
  EncodedAs 0xF01E 0xF0FF false (fun w => .addI (fieldX w)) ∧
  ∀ (x : Nibble) (s : State), ∃ t, exec (.addI x) s = .next t ∧
    t.i.toNat = (s.i.toNat + (s.reg x).toNat) % 65536 ∧ t.pc = s.pc + 2#16 ∧ s.ChangesOnly t (fun p => p = .index)

/-- R172, FONT VX. The spec marks the fault above 0xF as its own choice (D22). -/
def Obligations.FontAddressesTheGlyph : Prop :=
  EncodedAs 0xF029 0xF0FF false (fun w => .font (fieldX w)) ∧
  ∀ (x : Nibble) (s : State),
    ((s.reg x).toNat ≤ 0xF → ∃ t, exec (.font x) s = .next t ∧ t.i.toNat = 0x050 + 5 * (s.reg x).toNat ∧
      t.pc = s.pc + 2#16 ∧ s.ChangesOnly t (fun p => p = .index)) ∧
    (0xF < (s.reg x).toNat → ∃ t, exec (.font x) s = .next t ∧
      s.HaltsAs t .outOfBoundsAccess (some (encode (.font x))))

/-- R173, BCD VX. -/
def Obligations.BcdStoresThreeDigits : Prop :=
  EncodedAs 0xF033 0xF0FF false (fun w => .bcd (fieldX w)) ∧
  ∀ (x : Nibble) (s : State), s.mem.wf →
    (s.i.toNat + 2 ≤ 0xFFF → ∃ t, exec (.bcd x) s = .next t ∧
      (t.mem.read s.i.toNat).toNat = (s.reg x).toNat / 100 ∧
      (t.mem.read (s.i.toNat + 1)).toNat = (s.reg x).toNat / 10 % 10 ∧
      (t.mem.read (s.i.toNat + 2)).toNat = (s.reg x).toNat % 10 ∧
      t.pc = s.pc + 2#16 ∧ s.ChangesOnly t (fun p => ∃ k, k < 3 ∧ p = .byte (s.i.toNat + k))) ∧
    (0xFFF < s.i.toNat + 2 → ∃ t, exec (.bcd x) s = .next t ∧
      s.HaltsAs t .outOfBoundsAccess (some (encode (.bcd x))))

/-- R174, STORE VX. -/
def Obligations.StoreWritesRegistersToMemory : Prop :=
  EncodedAs 0xF055 0xF0FF false (fun w => .store (fieldX w)) ∧
  ∀ (x : Nibble) (s : State), s.mem.wf →
    (s.i.toNat + x.toNat ≤ 0xFFF → ∃ t, exec (.store x) s = .next t ∧
      (∀ k : Nibble, k.toNat ≤ x.toNat → t.mem.read (s.i.toNat + k.toNat) = s.reg k) ∧
      IndexAfter s t x ∧ t.pc = s.pc + 2#16 ∧
      s.ChangesOnly t (fun p => (s.cfg.loadStoreI = .increment ∧ p = .index) ∨
        ∃ k, k ≤ x.toNat ∧ p = .byte (s.i.toNat + k))) ∧
    (0xFFF < s.i.toNat + x.toNat → ∃ t, exec (.store x) s = .next t ∧
      s.HaltsAs t .outOfBoundsAccess (some (encode (.store x))))

/-- R175, LOAD VX. -/
def Obligations.LoadReadsRegistersFromMemory : Prop :=
  EncodedAs 0xF065 0xF0FF false (fun w => .load (fieldX w)) ∧
  ∀ (x : Nibble) (s : State),
    (s.i.toNat + x.toNat ≤ 0xFFF → ∃ t, exec (.load x) s = .next t ∧
      (∀ k : Nibble, k.toNat ≤ x.toNat → t.reg k = s.mem.read (s.i.toNat + k.toNat)) ∧
      IndexAfter s t x ∧ t.pc = s.pc + 2#16 ∧
      s.ChangesOnly t (fun p => (s.cfg.loadStoreI = .increment ∧ p = .index) ∨
        ∃ k : Nibble, k.toNat ≤ x.toNat ∧ p = .reg k)) ∧
    (0xFFF < s.i.toNat + x.toNat → ∃ t, exec (.load x) s = .next t ∧
      s.HaltsAs t .outOfBoundsAccess (some (encode (.load x))))

/-! ## Random, keypad and timers -/

/-- RAND VX, NN writes a drawn byte AND NN (R186). That the draw is `Config.drawByte` of the model's own counter
is the model's choice (log entry 5); the byte is a free value, so this holds for every draw. -/
def Obligations.RandMasksTheDraw : Prop :=
  EncodedAs 0xC000 0xF000 false (fun w => .rand (fieldX w) (fieldNN w)) ∧
  ∀ (x : Nibble) (nn : Byte) (s : State), ∃ t, exec (.rand x nn) s = .next t ∧
    t.reg x = Config.drawByte s.oracle &&& nn ∧ (nn = 0#8 → t.reg x = 0#8) ∧
    (nn = 0xFF#8 → t.reg x = Config.drawByte s.oracle) ∧
    t.pc = s.pc + 2#16 ∧ s.ChangesOnly t (fun p => p = .reg x ∨ p = .oracle)

/-- R187, R188 and R189: SKIP.KEY and SKIP.NKEY, and the index check they share, which the spec marks as its own
choice (D22). -/
def Obligations.KeySkipsReadTheKeypad : Prop :=
  EncodedAs 0xE09E 0xF0FF false (fun w => .skipKey (fieldX w)) ∧
  EncodedAs 0xE0A1 0xF0FF false (fun w => .skipNkey (fieldX w)) ∧
  ∀ (x : Nibble) (s : State),
    (∀ k : Fin 16, (s.reg x).toNat = k.val →
      (∃ t, exec (.skipKey x) s = .next t ∧ SkipsWhen s t (s.key[k] = true)) ∧
      (∃ t, exec (.skipNkey x) s = .next t ∧ SkipsWhen s t (s.key[k] = false))) ∧
    (0xF < (s.reg x).toNat →
      (∃ t, exec (.skipKey x) s = .next t ∧ s.HaltsAs t .outOfBoundsAccess (some (encode (.skipKey x)))) ∧
      (∃ t, exec (.skipNkey x) s = .next t ∧ s.HaltsAs t .outOfBoundsAccess (some (encode (.skipNkey x)))))

/-- WAITKEY VX with a key down completes and stores the number of a key that is down (R190); which one, when
several are, is a free value (log entry 6). -/
def Obligations.WaitKeyStoresAKeyThatIsDown : Prop :=
  EncodedAs 0xF00A 0xF0FF false (fun w => .waitKey (fieldX w)) ∧
  ∀ (x : Nibble) (s : State), (∃ k : Fin 16, s.key[k] = true) →
    ∃ t, exec (.waitKey x) s = .next t ∧ (∃ k : Fin 16, s.key[k] = true ∧ (t.reg x).toNat = k.val) ∧
      t.pc = s.pc + 2#16 ∧ s.ChangesOnly t (fun p => p = .reg x ∨ p = .oracle)

/-- WAITKEY VX with no key down changes nothing, PC included (R97, R194). That the attempted cycle is a step
to the same state is the model's choice (log entry 4). -/
def Obligations.WaitKeyHoldsUntilAKeyIsDown : Prop :=
  ∀ (x : Nibble) (s : State), (∀ k : Fin 16, s.key[k] = false) → exec (.waitKey x) s = .next s

/-- R191, R192 and R193: GET VX, DT; SET DT, VX; SET ST, VX. -/
def Obligations.TimerInstructionsMoveTimers : Prop :=
  EncodedAs 0xF007 0xF0FF false (fun w => .getDt (fieldX w)) ∧
  EncodedAs 0xF015 0xF0FF false (fun w => .setDt (fieldX w)) ∧
  EncodedAs 0xF018 0xF0FF false (fun w => .setSt (fieldX w)) ∧
  ∀ (x : Nibble) (s : State),
    (∃ t, exec (.getDt x) s = .next t ∧ t.reg x = s.dt ∧ t.pc = s.pc + 2#16 ∧ s.ChangesOnly t (fun p => p = .reg x)) ∧
    (∃ t, exec (.setDt x) s = .next t ∧ t.dt = s.reg x ∧ t.pc = s.pc + 2#16 ∧ s.ChangesOnly t (fun p => p = .delay)) ∧
    (∃ t, exec (.setSt x) s = .next t ∧ t.st = s.reg x ∧ t.pc = s.pc + 2#16 ∧
      (t.soundActive = true ↔ s.reg x ≠ 0#8) ∧ s.ChangesOnly t (fun p => p = .sound))
end

