-- ==== Sys2Proof/Laws/Decode.lean ====
section
/-! SUPPORT. The fields of an instruction word: of one built from its fields, and of one that matches a
row's mask. -/

namespace Sys2Proof

/-- Concatenation as arithmetic. -/
theorem toNat_append_eq {m n : Nat} (a : BitVec m) (b : BitVec n) : (a ++ b).toNat = a.toNat * 2 ^ n + b.toNat := by
  rw [BitVec.toNat_append, Nat.shiftLeft_eq, ← Nat.shiftLeft_eq, ← Nat.shiftLeft_add_eq_or_of_lt b.isLt]

/-- A field of a word as arithmetic. -/
theorem toNat_field (w : Word) (lo n : Nat) : (w.extractLsb' lo n).toNat = w.toNat / 2 ^ lo % 2 ^ n := by
  rw [BitVec.extractLsb'_toNat, Nat.shiftRight_eq_div_pow]

theorem formNNN_toNat (f : Nibble) (nnn : Addr) : (formNNN f nnn).toNat = f.toNat * 4096 + nnn.toNat :=
  toNat_append_eq f nnn

theorem formXNN_toNat (f x : Nibble) (nn : Byte) :
    (formXNN f x nn).toNat = f.toNat * 4096 + x.toNat * 256 + nn.toNat := by
  have h : (formXNN f x nn).toNat = (f ++ x).toNat * 2 ^ 8 + nn.toNat := toNat_append_eq (f ++ x) nn
  rw [h, toNat_append_eq f x]
  omega

theorem formXYN_toNat (f x y n : Nibble) :
    (formXYN f x y n).toNat = f.toNat * 4096 + x.toNat * 256 + y.toNat * 16 + n.toNat := by
  have h : (formXYN f x y n).toNat = (f ++ x ++ y).toNat * 2 ^ 4 + n.toNat := toNat_append_eq (f ++ x ++ y) n
  rw [h, toNat_append_eq (f ++ x) y, toNat_append_eq f x]
  omega

@[simp] theorem family_formNNN (f : Nibble) (nnn : Addr) : family (formNNN f nnn) = f := by
  apply BitVec.eq_of_toNat_eq
  rw [family, toNat_field, formNNN_toNat]
  omega

@[simp] theorem fieldNNN_formNNN (f : Nibble) (nnn : Addr) : fieldNNN (formNNN f nnn) = nnn := by
  apply BitVec.eq_of_toNat_eq
  rw [fieldNNN, toNat_field, formNNN_toNat]
  omega

@[simp] theorem family_formXNN (f x : Nibble) (nn : Byte) : family (formXNN f x nn) = f := by
  apply BitVec.eq_of_toNat_eq
  rw [family, toNat_field, formXNN_toNat]
  omega

@[simp] theorem fieldX_formXNN (f x : Nibble) (nn : Byte) : fieldX (formXNN f x nn) = x := by
  apply BitVec.eq_of_toNat_eq
  rw [fieldX, toNat_field, formXNN_toNat]
  omega

@[simp] theorem fieldNN_formXNN (f x : Nibble) (nn : Byte) : fieldNN (formXNN f x nn) = nn := by
  apply BitVec.eq_of_toNat_eq
  rw [fieldNN, toNat_field, formXNN_toNat]
  omega

@[simp] theorem family_formXYN (f x y n : Nibble) : family (formXYN f x y n) = f := by
  apply BitVec.eq_of_toNat_eq
  rw [family, toNat_field, formXYN_toNat]
  omega

@[simp] theorem fieldX_formXYN (f x y n : Nibble) : fieldX (formXYN f x y n) = x := by
  apply BitVec.eq_of_toNat_eq
  rw [fieldX, toNat_field, formXYN_toNat]
  omega

@[simp] theorem fieldY_formXYN (f x y n : Nibble) : fieldY (formXYN f x y n) = y := by
  apply BitVec.eq_of_toNat_eq
  rw [fieldY, toNat_field, formXYN_toNat]
  omega

@[simp] theorem fieldN_formXYN (f x y n : Nibble) : fieldN (formXYN f x y n) = n := by
  apply BitVec.eq_of_toNat_eq
  rw [fieldN, toNat_field, formXYN_toNat]
  omega

/-- The three shapes put a word's own fields back together. -/
theorem formNNN_fields (w : Word) : formNNN (family w) (fieldNNN w) = w := by
  apply BitVec.eq_of_toNat_eq
  rw [formNNN_toNat, family, fieldNNN, toNat_field, toNat_field]
  omega

theorem formXNN_fields (w : Word) : formXNN (family w) (fieldX w) (fieldNN w) = w := by
  apply BitVec.eq_of_toNat_eq
  rw [formXNN_toNat, family, fieldX, fieldNN, toNat_field, toNat_field, toNat_field]
  omega

theorem formXYN_fields (w : Word) : formXYN (family w) (fieldX w) (fieldY w) (fieldN w) = w := by
  apply BitVec.eq_of_toNat_eq
  rw [formXYN_toNat, family, fieldX, fieldY, fieldN, toNat_field, toNat_field, toNat_field, toNat_field]
  omega

/-- The bytes of a word put the word back together (R49). -/
@[simp] theorem bigEndian_bytes (w : Word) : bigEndian (highByte w) (lowByte w) = w := by
  apply BitVec.eq_of_toNat_eq
  have h : (bigEndian (highByte w) (lowByte w)).toNat = (highByte w).toNat * 2 ^ 8 + (lowByte w).toNat :=
    toNat_append_eq (highByte w) (lowByte w)
  rw [h, highByte, lowByte, toNat_field, toNat_field]
  omega

/-- The value of a fetched word (R49): the byte at the lower address is bits 15:8. -/
theorem bigEndian_toNat (hi lo : Byte) : (bigEndian hi lo).toNat = hi.toNat * 256 + lo.toNat :=
  toNat_append_eq hi lo

/-- A field that a row's mask covers has the value the row's pattern gives it. -/
theorem field_of_masked {w mask pattern : Word} (lo n : Nat) (h : w &&& mask = pattern)
    (hm : mask.extractLsb' lo n = BitVec.allOnes n) : w.extractLsb' lo n = pattern.extractLsb' lo n := by
  rw [← h, BitVec.extractLsb'_and, hm, BitVec.and_allOnes]

/-- Masking a word masks each field. -/
theorem family_and (a b : Word) : family (a &&& b) = family a &&& family b := BitVec.extractLsb'_and

theorem fieldX_and (a b : Word) : fieldX (a &&& b) = fieldX a &&& fieldX b := BitVec.extractLsb'_and

theorem fieldY_and (a b : Word) : fieldY (a &&& b) = fieldY a &&& fieldY b := BitVec.extractLsb'_and

theorem fieldN_and (a b : Word) : fieldN (a &&& b) = fieldN a &&& fieldN b := BitVec.extractLsb'_and

theorem fieldNN_and (a b : Word) : fieldNN (a &&& b) = fieldNN a &&& fieldNN b := BitVec.extractLsb'_and

theorem fieldNNN_and (a b : Word) : fieldNNN (a &&& b) = fieldNNN a &&& fieldNNN b := BitVec.extractLsb'_and

/-- A word of shape `fNNN` under the mask 0xF000. -/
theorem formNNN_masked (f : Nibble) (nnn : Addr) : formNNN f nnn &&& 0xF000#16 = formNNN f 0#12 := by
  rw [← formNNN_fields (formNNN f nnn &&& 0xF000#16), family_and, fieldNNN_and, family_formNNN, fieldNNN_formNNN,
    show family 0xF000#16 = BitVec.allOnes 4 by decide, show fieldNNN 0xF000#16 = 0#12 by decide]
  simp only [BitVec.and_allOnes, BitVec.and_zero]

/-- A word of shape `fXNN` under the mask 0xF000. -/
theorem formXNN_masked_family (f x : Nibble) (nn : Byte) : formXNN f x nn &&& 0xF000#16 = formXNN f 0#4 0#8 := by
  rw [← formXNN_fields (formXNN f x nn &&& 0xF000#16), family_and, fieldX_and, fieldNN_and, family_formXNN,
    fieldX_formXNN, fieldNN_formXNN, show family 0xF000#16 = BitVec.allOnes 4 by decide,
    show fieldX 0xF000#16 = 0#4 by decide, show fieldNN 0xF000#16 = 0#8 by decide]
  simp only [BitVec.and_allOnes, BitVec.and_zero]

/-- A word of shape `fXNN` under the mask 0xF0FF. -/
theorem formXNN_masked_tail (f x : Nibble) (nn : Byte) : formXNN f x nn &&& 0xF0FF#16 = formXNN f 0#4 nn := by
  rw [← formXNN_fields (formXNN f x nn &&& 0xF0FF#16), family_and, fieldX_and, fieldNN_and, family_formXNN,
    fieldX_formXNN, fieldNN_formXNN, show family 0xF0FF#16 = BitVec.allOnes 4 by decide,
    show fieldX 0xF0FF#16 = 0#4 by decide, show fieldNN 0xF0FF#16 = BitVec.allOnes 8 by decide]
  simp only [BitVec.and_allOnes, BitVec.and_zero]

/-- A word of shape `fXYN` under the mask 0xF00F. -/
theorem formXYN_masked_tail (f x y n : Nibble) : formXYN f x y n &&& 0xF00F#16 = formXYN f 0#4 0#4 n := by
  rw [← formXYN_fields (formXYN f x y n &&& 0xF00F#16), family_and, fieldX_and, fieldY_and, fieldN_and,
    family_formXYN, fieldX_formXYN, fieldY_formXYN, fieldN_formXYN,
    show family 0xF00F#16 = BitVec.allOnes 4 by decide, show fieldX 0xF00F#16 = 0#4 by decide,
    show fieldY 0xF00F#16 = 0#4 by decide, show fieldN 0xF00F#16 = BitVec.allOnes 4 by decide]
  simp only [BitVec.and_allOnes, BitVec.and_zero]

/-- A word of shape `fXYN` under the mask 0xF000. -/
theorem formXYN_masked_family (f x y n : Nibble) : formXYN f x y n &&& 0xF000#16 = formXYN f 0#4 0#4 0#4 := by
  rw [← formXYN_fields (formXYN f x y n &&& 0xF000#16), family_and, fieldX_and, fieldY_and, fieldN_and,
    family_formXYN, fieldX_formXYN, fieldY_formXYN, fieldN_formXYN,
    show family 0xF000#16 = BitVec.allOnes 4 by decide, show fieldX 0xF000#16 = 0#4 by decide,
    show fieldY 0xF000#16 = 0#4 by decide, show fieldN 0xF000#16 = 0#4 by decide]
  simp only [BitVec.and_allOnes, BitVec.and_zero]

end Sys2Proof
end

