-- ==== Sys2Proof/Laws/Display.lean ====
section
/-! SUPPORT. What drawing does, pixel by pixel. -/

namespace Sys2Proof.Machine

/-- A pixel reads as what was last written there. -/
theorem Display.pixel_setPixel (d : Display) {x y : Nat} (hx : x < 64) (hy : y < 32) (b : Bool) (p q : Nat) :
    (d.setPixel x y b).pixel p q = if p = x ∧ q = y then b else d.pixel p q := by
  have hset : d.setPixel x y b = d.set x ((d[x]'hx).set y b hy) hx := dif_pos ⟨hx, hy⟩
  rw [hset]
  unfold Display.pixel
  by_cases hpq : p < 64 ∧ q < 32
  · rw [dif_pos hpq, dif_pos hpq]
    by_cases hp : p = x
    · subst hp
      by_cases hq : q = y
      · subst hq; simp
      · simp [Ne.symm hq, hq]
    · simp [Ne.symm hp, hp]
  · rw [dif_neg hpq, dif_neg hpq, if_neg (by omega)]

/-- A pixel outside the grid reads as off. -/
theorem Display.pixel_outside (d : Display) {x y : Nat} (h : ¬ (x < 64 ∧ y < 32)) : d.pixel x y = false := by
  unfold Display.pixel
  rw [dif_neg h]

/-- The blank display is off everywhere. -/
theorem Display.pixel_blank (x y : Nat) : Display.blank.pixel x y = false := by
  unfold Display.pixel Display.blank
  split <;> simp

/-- Two displays with the same pixels are the same data. -/
theorem Display.ext {d e : Display} (h : ∀ x y, x < 64 → y < 32 → d.pixel x y = e.pixel x y) : d = e := by
  apply Vector.ext
  intro x hx
  apply Vector.ext
  intro y hy
  have := h x y hx hy
  unfold Display.pixel at this
  rwa [dif_pos ⟨hx, hy⟩, dif_pos ⟨hx, hy⟩] at this

/-- The sprite bits of a row that has reached column tx: bit k stands at column tx + k. -/
def rowBitAt (tx : Nat) (bits : List Bool) (x : Nat) : Bool := decide (tx ≤ x) && bits.getD (x - tx) false

theorem rowBitAt_cons (tx : Nat) (bit : Bool) (bits : List Bool) (x : Nat) :
    rowBitAt tx (bit :: bits) x = if x = tx then bit else rowBitAt (tx + 1) bits x := by
  unfold rowBitAt
  split
  · subst_vars; simp
  · by_cases h : tx ≤ x
    · rw [show x - tx = (x - (tx + 1)) + 1 by omega]
      have : tx + 1 ≤ x := by omega
      simp [h, this]
    · have : ¬ tx + 1 ≤ x := by omega
      simp [h, this]

/-- One drawn row XORs its bits into the pixels under them, inside the grid (R121, R122). -/
theorem drawRow_pixel {ty : Nat} (hy : ty < 32) (bits : List Bool) (tx : Nat) (acc : Display × Bool) (p q : Nat) :
    (drawRow tx ty bits acc).1.pixel p q =
      (acc.1.pixel p q ^^ (decide (p < 64) && decide (q = ty) && rowBitAt tx bits p)) := by
  induction bits generalizing tx acc with
  | nil => simp [drawRow, rowBitAt]
  | cons bit bits ih =>
    unfold drawRow
    split
    · rename_i hx
      rw [ih, rowBitAt_cons]
      have hflip : (if bit = true then flipPixel tx ty acc else acc).1.pixel p q =
          (acc.1.pixel p q ^^ (bit && decide (p = tx) && decide (q = ty))) := by
        cases bit
        · simp
        · simp only [if_true, flipPixel, Display.pixel_setPixel _ hx hy]
          by_cases h : p = tx ∧ q = ty
          · simp [h]
          · rw [if_neg h]
            rw [not_and_or] at h
            rcases h with h | h <;> simp [h]
      rw [hflip]
      by_cases hp : p = tx
      · subst hp
        simp [rowBitAt, hx]
        cases bit <;> simp
      · simp [hp]
    · rename_i hx
      have : (decide (p < 64) && rowBitAt tx (bit :: bits) p) = false := by
        unfold rowBitAt
        by_cases hp : p < 64
        · have : ¬ tx ≤ p := by omega
          simp [this]
        · simp [hp]
      rw [Bool.and_right_comm, this]
      simp

/-- A drawn row reports a collision when one of its bits meets a pixel that is on (R122). -/
theorem drawRow_collision {ty : Nat} (hy : ty < 32) (bits : List Bool) (tx : Nat) (acc : Display × Bool) :
    (drawRow tx ty bits acc).2 = true ↔
      acc.2 = true ∨ ∃ p, p < 64 ∧ rowBitAt tx bits p = true ∧ acc.1.pixel p ty = true := by
  induction bits generalizing tx acc with
  | nil => simp [drawRow, rowBitAt]
  | cons bit bits ih =>
    unfold drawRow
    split
    · rename_i hx
      rw [ih]
      have hother : ∀ p, p ≠ tx →
          (if bit = true then flipPixel tx ty acc else acc).1.pixel p ty = acc.1.pixel p ty := by
        intro p hp
        cases bit
        · rfl
        · simp [flipPixel, Display.pixel_setPixel _ hx hy, hp]
      have hbelow : ∀ p, rowBitAt (tx + 1) bits p = true → p ≠ tx := by
        rintro p h rfl
        simp [rowBitAt] at h
      constructor
      · rintro (h | ⟨p, hp, hb, hd⟩)
        · cases bit
          · exact .inl h
          · simp only [if_true, flipPixel, Bool.or_eq_true] at h
            rcases h with h | h
            · exact .inl h
            · exact .inr ⟨tx, hx, by simp [rowBitAt_cons], h⟩
        · exact .inr ⟨p, hp, by rw [rowBitAt_cons, if_neg (hbelow p hb)]; exact hb, by rwa [← hother p (hbelow p hb)]⟩
      · rintro (h | ⟨p, hp, hb, hd⟩)
        · left
          cases bit
          · exact h
          · simp [flipPixel, h]
        · rw [rowBitAt_cons] at hb
          split at hb
          · subst_vars
            left
            simp [flipPixel, hd]
          · exact .inr ⟨p, hp, hb, by rwa [hother p (by assumption)]⟩
    · rename_i hx
      constructor
      · exact .inl
      · rintro (h | ⟨p, hp, hb, -⟩)
        · exact h
        · simp [rowBitAt] at hb
          omega

/-- The sprite bit over display cell (x, y), for rows that have reached display row ty. -/
def spriteBitAt (ox ty : Nat) (rows : List Byte) (x y : Nat) : Bool :=
  decide (ty ≤ y) && decide (y < ty + rows.length) && rowBitAt ox (rowBits (rows.getD (y - ty) 0#8)) x

theorem spriteBitAt_cons (ox ty : Nat) (b : Byte) (rows : List Byte) (x y : Nat) :
    spriteBitAt ox ty (b :: rows) x y = if y = ty then rowBitAt ox (rowBits b) x else spriteBitAt ox (ty + 1) rows x y := by
  unfold spriteBitAt
  split
  · subst_vars; simp
  · by_cases h : ty ≤ y
    · rw [show y - ty = (y - (ty + 1)) + 1 by omega]
      have h1 : ty + 1 ≤ y := by omega
      have h2 : y < ty + (rows.length + 1) ↔ y < ty + 1 + rows.length := by omega
      simp [h, h1, h2]
    · have : ¬ ty + 1 ≤ y := by omega
      simp [h, this]

/-- A drawn sprite XORs its bits into the pixels under them, clipped at the right and bottom edges
(R120-R122). -/
theorem drawRows_pixel (rows : List Byte) (ox ty : Nat) (acc : Display × Bool) (p q : Nat) :
    (drawRows ox ty rows acc).1.pixel p q =
      (acc.1.pixel p q ^^ (decide (p < 64) && decide (q < 32) && spriteBitAt ox ty rows p q)) := by
  induction rows generalizing ty acc with
  | nil =>
    have : spriteBitAt ox ty [] p q = false := by
      unfold spriteBitAt
      by_cases h : ty ≤ q
      · have : ¬ q < ty := by omega
        simp [this]
      · simp [h]
    simp [drawRows, this]
  | cons b rows ih =>
    unfold drawRows
    split
    · rename_i hy
      rw [ih, drawRow_pixel hy, spriteBitAt_cons]
      by_cases hq : q = ty
      · subst hq
        have : spriteBitAt ox (q + 1) rows p q = false := by simp [spriteBitAt]
        simp [hy, this]
      · simp [hq]
    · rename_i hy
      have : (decide (q < 32) && spriteBitAt ox ty (b :: rows) p q) = false := by
        unfold spriteBitAt
        by_cases hq : q < 32
        · have : ¬ ty ≤ q := by omega
          simp [this]
        · simp [hq]
      rw [Bool.and_assoc, this]
      simp

/-- A drawn sprite reports a collision exactly when one of its drawn bits meets a pixel that is on, in the
display as it was before (R122). -/
theorem drawRows_collision (rows : List Byte) (ox ty : Nat) (acc : Display × Bool) :
    (drawRows ox ty rows acc).2 = true ↔
      acc.2 = true ∨ ∃ p q, p < 64 ∧ q < 32 ∧ spriteBitAt ox ty rows p q = true ∧ acc.1.pixel p q = true := by
  induction rows generalizing ty acc with
  | nil =>
    simp only [drawRows]
    constructor
    · exact .inl
    · rintro (h | ⟨p, q, -, -, hs, -⟩)
      · exact h
      · simp [spriteBitAt] at hs
        omega
  | cons b rows ih =>
    unfold drawRows
    split
    · rename_i hy
      rw [ih, drawRow_collision hy]
      have hrow : ∀ p q, q ≠ ty → (drawRow ox ty (rowBits b) acc).1.pixel p q = acc.1.pixel p q := by
        intro p q hq
        rw [drawRow_pixel hy]
        simp [hq]
      constructor
      · rintro ((h | ⟨p, hp, hb, hd⟩) | ⟨p, q, hp, hq, hs, hd⟩)
        · exact .inl h
        · exact .inr ⟨p, ty, hp, hy, by rw [spriteBitAt_cons, if_pos rfl]; exact hb, hd⟩
        · have hne : q ≠ ty := by
            rintro rfl
            simp [spriteBitAt] at hs
          exact .inr ⟨p, q, hp, hq, by rw [spriteBitAt_cons, if_neg hne]; exact hs, by rwa [← hrow p q hne]⟩
      · rintro (h | ⟨p, q, hp, hq, hs, hd⟩)
        · exact .inl (.inl h)
        · rw [spriteBitAt_cons] at hs
          split at hs
          · subst_vars
            exact .inl (.inr ⟨p, hp, hs, hd⟩)
          · exact .inr ⟨p, q, hp, hq, hs, by rwa [hrow p q (by assumption)]⟩
    · rename_i hy
      constructor
      · exact .inl
      · rintro (h | ⟨p, q, -, hq, hs, -⟩)
        · exact h
        · simp [spriteBitAt] at hs
          omega

/-- The pixels of a sprite row by column: bit `7 - c` of the byte at column `ox + c` (R121). -/
theorem rowBitAt_rowBits (ox : Nat) (b : Byte) (x : Nat) :
    rowBitAt ox (rowBits b) x = (decide (ox ≤ x) && decide (x < ox + 8) && b.getLsbD (7 - (x - ox))) := by
  unfold rowBitAt rowBits
  by_cases h1 : ox ≤ x
  · by_cases h2 : x < ox + 8
    · have : x - ox < 8 := by omega
      simp [h1, h2, List.getD_eq_getElem?_getD, this]
    · have : ¬ x - ox < 8 := by omega
      simp [h1, h2, List.getD_eq_getElem?_getD, this]
  · simp [h1]

end Sys2Proof.Machine
end

