-- ==== Sys2Proof/Laws/Memory.lean ====
section
/-! SUPPORT. The laws of memory: a read after a write, the canonical form that every operation keeps, and
equal memories as equal data. -/

namespace Sys2Proof.Machine

/-- An address that no entry lists reads as the background. -/
theorem Memory.read_of_not_listed {m : Memory} {a : Nat} (h : ∀ c ∈ m, c.1 ≠ a) : m.read a = Memory.background a := by
  induction m with
  | nil => rfl
  | cons d rest ih =>
    rw [Memory.read, if_neg (h d (by simp))]
    exact ih (fun c hc => h c (by simp [hc]))

/-- A byte reads as what was last written there, and a write leaves every other byte alone (R53). The
canonical form keeps the address order that the lookup relies on. -/
theorem Memory.read_write (m : Memory) (h : m.Pairwise (fun c d => c.1 < d.1)) (a : Nat) (b : Byte) (q : Nat) :
    (m.write a b).read q = if q = a then b else m.read q := by
  induction m with
  | nil =>
    by_cases hb : b = Memory.background a
    · rw [Memory.write, if_pos hb, Memory.read]
      split
      · rename_i e; rw [e, hb]
      · rfl
    · simp only [Memory.write, if_neg hb, Memory.read]
      by_cases e : q = a
      · rw [if_pos e, if_pos e.symm]
      · rw [if_neg e, if_neg (Ne.symm e)]
  | cons c rest ih =>
    obtain ⟨hc, hrest⟩ := List.pairwise_cons.mp h
    have ih := ih hrest
    have beyond : ∀ q, q ≤ c.1 → Memory.read rest q = Memory.background q := fun q hq =>
      Memory.read_of_not_listed fun d hd e => by have := hc d hd; omega
    unfold Memory.write
    split
    · split
      · rename_i h1 h2
        by_cases hq : q = a
        · subst hq
          rw [if_pos rfl, Memory.read, if_neg (by omega), beyond q (by omega), h2]
        · simp [hq]
      · by_cases hq : q = a
        · simp [Memory.read, hq]
        · rw [Memory.read, if_neg (by simp; omega), if_neg hq]
    · split
      · rename_i h1 h2
        split
        · rename_i h3
          by_cases hq : q = a
          · subst hq
            rw [if_pos rfl, beyond q (by omega), h3]
          · rw [if_neg hq, Memory.read, if_neg (by omega)]
        · by_cases hq : q = a
          · simp [Memory.read, hq]
          · simp only [Memory.read, if_neg hq]
            rw [if_neg (by omega), if_neg (by omega)]
      · rename_i h1 h2
        rw [Memory.read, Memory.read, ih]
        split
        · rw [if_neg (by omega)]
        · rfl

/-- Every entry of a written memory is the one written, or an entry of the memory before. -/
theorem Memory.mem_write {m : Memory} {a : Nat} {b : Byte} {c : Host.Cell} (hc : c ∈ m.write a b) :
    (c = (a, b) ∧ b ≠ Memory.background a) ∨ c ∈ m := by
  induction m with
  | nil =>
    unfold Memory.write at hc
    split at hc <;> simp_all
  | cons d rest ih =>
    unfold Memory.write at hc
    repeat' split at hc
    all_goals simp_all
    all_goals aesop

/-- A write inside the address space keeps the canonical form. -/
theorem Memory.wf_write {m : Memory} (h : m.wf) {a : Nat} (ha : a < memSize) (b : Byte) : (m.write a b).wf := by
  obtain ⟨hp, hall⟩ := h
  refine ⟨?_, fun c hc => ?_⟩
  · induction m with
    | nil => unfold Memory.write; split <;> simp
    | cons d rest ih =>
      obtain ⟨hd, hrest⟩ := List.pairwise_cons.mp hp
      have ih := ih hrest (fun c hc => hall c (by simp [hc]))
      unfold Memory.write
      split
      · split
        · exact hp
        · refine List.pairwise_cons.mpr ⟨fun c hc => ?_, hp⟩
          rcases List.mem_cons.mp hc with rfl | hc
          · assumption
          · have := hd c hc
            simp only; omega
      · split
        · split
          · exact hrest
          · refine List.pairwise_cons.mpr ⟨fun c hc => ?_, hrest⟩
            have := hd c hc
            simp only; omega
        · refine List.pairwise_cons.mpr ⟨fun c hc => ?_, ih⟩
          rcases Memory.mem_write hc with ⟨rfl, _⟩ | hc
          · simp only; omega
          · exact hd c hc
  · rcases Memory.mem_write hc with ⟨rfl, hb⟩ | hc
    · exact ⟨ha, hb⟩
    · exact hall c hc

/-- A span written inside the address space keeps the canonical form. -/
theorem Memory.wf_writeSpan {m : Memory} (h : m.wf) {a : Nat} (bs : List Byte) (ha : a + bs.length ≤ memSize) :
    (m.writeSpan a bs).wf := by
  induction bs generalizing m a with
  | nil => exact h
  | cons b bs ih =>
    simp only [List.length_cons] at ha
    exact ih (Memory.wf_write h (by omega) b) (by omega)

/-- After a span is written, its addresses read as its bytes and every other byte is unchanged. -/
theorem Memory.read_writeSpan {m : Memory} (h : m.wf) {a : Nat} (bs : List Byte) (ha : a + bs.length ≤ memSize) (q : Nat) :
    (m.writeSpan a bs).read q =
      if a ≤ q ∧ q < a + bs.length then bs.getD (q - a) 0#8 else m.read q := by
  induction bs generalizing m a with
  | nil =>
    rw [if_neg (by simp)]
    rfl
  | cons b bs ih =>
    simp only [List.length_cons] at ha ⊢
    rw [Memory.writeSpan, ih (Memory.wf_write h (by omega) b) (by omega), Memory.read_write m h.1]
    by_cases hq : q = a
    · subst hq
      rw [if_neg (by omega), if_pos rfl, if_pos (by omega)]
      simp
    · by_cases hr : a + 1 ≤ q ∧ q < a + 1 + bs.length
      · rw [if_pos hr, if_pos (by omega), show q - a = (q - (a + 1)) + 1 by omega]
        simp
      · rw [if_neg hr, if_neg hq, if_neg (by omega)]

/-- A listed entry is what its address reads as. -/
theorem Memory.read_of_mem {m : Memory} (h : m.Pairwise (fun c d => c.1 < d.1)) {c : Host.Cell} (hc : c ∈ m) :
    m.read c.1 = c.2 := by
  induction m with
  | nil => simp at hc
  | cons d rest ih =>
    obtain ⟨hd, hrest⟩ := List.pairwise_cons.mp h
    rcases List.mem_cons.mp hc with rfl | hc
    · simp [Memory.read]
    · have := hd c hc
      rw [Memory.read, if_neg (by omega)]
      exact ih hrest hc

/-- The bytes of a span that is read. -/
theorem Memory.readSpan_length (m : Memory) (a n : Nat) : (m.readSpan a n).length = n := by
  simp [Memory.readSpan]

theorem Memory.readSpan_getElem (m : Memory) (a n k : Nat) (h : k < (m.readSpan a n).length) :
    (m.readSpan a n)[k] = m.read (a + k) := by
  simp [Memory.readSpan]

/-- What construction lists: the addresses whose initial byte is not the background's. -/
theorem Memory.mem_construct (fill : Nat → Byte) (c : Host.Cell) :
    c ∈ Memory.construct fill ↔
      c.1 < memSize ∧ c.2 = initialByte fill c.1 ∧ c.2 ≠ Memory.background c.1 := by
  unfold Memory.construct
  generalize memSize = n
  simp only [List.mem_filterMap, List.mem_range]
  constructor
  · rintro ⟨a, ha, hc⟩
    split at hc
    · cases hc
    · rename_i h
      cases hc
      exact ⟨ha, rfl, h⟩
  · rintro ⟨ha, hb, hne⟩
    exact ⟨c.1, ha, by rw [if_neg (hb ▸ hne), ← hb]⟩

/-- The memory of a constructed instance is canonical. -/
theorem Memory.wf_construct (fill : Nat → Byte) : (Memory.construct fill).wf := by
  refine ⟨?_, fun c hc => ?_⟩
  · unfold Memory.construct
    generalize memSize = n
    rw [List.pairwise_filterMap]
    refine (List.pairwise_lt_range (n := n)).imp ?_
    intro a b hab c hc d hd
    split at hc <;> cases hc
    split at hd <;> cases hd
    exact hab
  · obtain ⟨h, _, h'⟩ := (Memory.mem_construct fill c).mp hc
    exact ⟨h, h'⟩

/-- A constructed instance reads as the font table over FILL (R54, R230). -/
theorem Memory.read_construct (fill : Nat → Byte) {a : Nat} (ha : a < memSize) :
    (Memory.construct fill).read a = initialByte fill a := by
  by_cases h : initialByte fill a = Memory.background a
  · rw [Memory.read_of_not_listed, h]
    rintro c hc rfl
    obtain ⟨_, hb, hne⟩ := (Memory.mem_construct fill c).mp hc
    exact hne (hb.trans h)
  · exact Memory.read_of_mem (Memory.wf_construct fill).1
      (c := (a, initialByte fill a)) ((Memory.mem_construct fill _).mpr ⟨ha, rfl, h⟩)

/-- With FILL = 0 nothing is listed: construction then gives `State.reset`'s memory. -/
theorem Memory.construct_zero : Memory.construct (fun _ => 0#8) = [] :=
  List.eq_nil_iff_forall_not_mem.mpr fun c hc => by
    obtain ⟨_, hb, hne⟩ := (Memory.mem_construct _ c).mp hc
    exact hne hb

/-- Two canonical memories that read alike are the same data. -/
theorem Memory.ext {m n : Memory} (hm : m.wf) (hn : n.wf) (h : ∀ a, a < memSize → m.read a = n.read a) : m = n := by
  have listed : ∀ {m n : Memory}, m.wf → n.wf → (∀ a, a < memSize → m.read a = n.read a) → ∀ c ∈ m, c ∈ n := by
    intro m n hm hn h c hc
    have hr := Memory.read_of_mem hm.1 hc
    have hlt := hm.2 c hc
    by_contra hcn
    have : ∀ d ∈ n, d.1 ≠ c.1 := by
      intro d hd e
      have hrd := Memory.read_of_mem hn.1 hd
      rw [e, ← h _ hlt.1, hr] at hrd
      exact hcn (by rwa [show c = d from Prod.ext e.symm hrd])
    have := Memory.read_of_not_listed this
    rw [← h _ hlt.1, hr] at this
    exact hlt.2 this
  have hperm : m.Perm n := by
    refine (List.perm_ext_iff_of_nodup ?_ ?_).mpr fun c =>
      ⟨listed hm hn h c, listed hn hm (fun a ha => (h a ha).symm) c⟩
    · exact hm.1.imp fun hcd e => by subst e; omega
    · exact hn.1.imp fun hcd e => by subst e; omega
  exact hperm.eq_of_pairwise (fun a b _ _ hab hba => by omega) hm.1 hn.1

end Sys2Proof.Machine
end

