-- ==== Sys2Proof/Laws/State.lean ====
section
/-! SUPPORT. One lemma per field per update of the state, so that no proof unfolds a record update. -/

namespace Sys2Proof.Machine

/-! ### setReg -/

@[simp] theorem State.setReg_i (s : State) (x : Nibble) (b : Byte) : (s.setReg x b).i = s.i := rfl
@[simp] theorem State.setReg_pc (s : State) (x : Nibble) (b : Byte) : (s.setReg x b).pc = s.pc := rfl
@[simp] theorem State.setReg_stack (s : State) (x : Nibble) (b : Byte) : (s.setReg x b).stack = s.stack := rfl
@[simp] theorem State.setReg_mem (s : State) (x : Nibble) (b : Byte) : (s.setReg x b).mem = s.mem := rfl
@[simp] theorem State.setReg_disp (s : State) (x : Nibble) (b : Byte) : (s.setReg x b).disp = s.disp := rfl
@[simp] theorem State.setReg_key (s : State) (x : Nibble) (b : Byte) : (s.setReg x b).key = s.key := rfl
@[simp] theorem State.setReg_dt (s : State) (x : Nibble) (b : Byte) : (s.setReg x b).dt = s.dt := rfl
@[simp] theorem State.setReg_st (s : State) (x : Nibble) (b : Byte) : (s.setReg x b).st = s.st := rfl
@[simp] theorem State.setReg_run (s : State) (x : Nibble) (b : Byte) : (s.setReg x b).run = s.run := rfl
@[simp] theorem State.setReg_halt (s : State) (x : Nibble) (b : Byte) : (s.setReg x b).halt = s.halt := rfl
@[simp] theorem State.setReg_dirty (s : State) (x : Nibble) (b : Byte) : (s.setReg x b).dirty = s.dirty := rfl
@[simp] theorem State.setReg_cfg (s : State) (x : Nibble) (b : Byte) : (s.setReg x b).cfg = s.cfg := rfl
@[simp] theorem State.setReg_oracle (s : State) (x : Nibble) (b : Byte) : (s.setReg x b).oracle = s.oracle := rfl
@[simp] theorem State.setReg_schedule (s : State) (x : Nibble) (b : Byte) : (s.setReg x b).schedule = s.schedule := rfl

/-! ### setIndex -/

@[simp] theorem State.setIndex_v (s : State) (a : Word) : (s.setIndex a).v = s.v := rfl
@[simp] theorem State.setIndex_i (s : State) (a : Word) : (s.setIndex a).i = a := rfl
@[simp] theorem State.setIndex_pc (s : State) (a : Word) : (s.setIndex a).pc = s.pc := rfl
@[simp] theorem State.setIndex_stack (s : State) (a : Word) : (s.setIndex a).stack = s.stack := rfl
@[simp] theorem State.setIndex_mem (s : State) (a : Word) : (s.setIndex a).mem = s.mem := rfl
@[simp] theorem State.setIndex_disp (s : State) (a : Word) : (s.setIndex a).disp = s.disp := rfl
@[simp] theorem State.setIndex_key (s : State) (a : Word) : (s.setIndex a).key = s.key := rfl
@[simp] theorem State.setIndex_dt (s : State) (a : Word) : (s.setIndex a).dt = s.dt := rfl
@[simp] theorem State.setIndex_st (s : State) (a : Word) : (s.setIndex a).st = s.st := rfl
@[simp] theorem State.setIndex_run (s : State) (a : Word) : (s.setIndex a).run = s.run := rfl
@[simp] theorem State.setIndex_halt (s : State) (a : Word) : (s.setIndex a).halt = s.halt := rfl
@[simp] theorem State.setIndex_dirty (s : State) (a : Word) : (s.setIndex a).dirty = s.dirty := rfl
@[simp] theorem State.setIndex_cfg (s : State) (a : Word) : (s.setIndex a).cfg = s.cfg := rfl
@[simp] theorem State.setIndex_oracle (s : State) (a : Word) : (s.setIndex a).oracle = s.oracle := rfl
@[simp] theorem State.setIndex_schedule (s : State) (a : Word) : (s.setIndex a).schedule = s.schedule := rfl
@[simp] theorem State.setIndex_reg (s : State) (a : Word) (q : Nibble) : (s.setIndex a).reg q = s.reg q := rfl

/-! ### jumpTo -/

@[simp] theorem State.jumpTo_v (s : State) (a : Word) : (s.jumpTo a).v = s.v := rfl
@[simp] theorem State.jumpTo_i (s : State) (a : Word) : (s.jumpTo a).i = s.i := rfl
@[simp] theorem State.jumpTo_pc (s : State) (a : Word) : (s.jumpTo a).pc = a := rfl
@[simp] theorem State.jumpTo_stack (s : State) (a : Word) : (s.jumpTo a).stack = s.stack := rfl
@[simp] theorem State.jumpTo_mem (s : State) (a : Word) : (s.jumpTo a).mem = s.mem := rfl
@[simp] theorem State.jumpTo_disp (s : State) (a : Word) : (s.jumpTo a).disp = s.disp := rfl
@[simp] theorem State.jumpTo_key (s : State) (a : Word) : (s.jumpTo a).key = s.key := rfl
@[simp] theorem State.jumpTo_dt (s : State) (a : Word) : (s.jumpTo a).dt = s.dt := rfl
@[simp] theorem State.jumpTo_st (s : State) (a : Word) : (s.jumpTo a).st = s.st := rfl
@[simp] theorem State.jumpTo_run (s : State) (a : Word) : (s.jumpTo a).run = s.run := rfl
@[simp] theorem State.jumpTo_halt (s : State) (a : Word) : (s.jumpTo a).halt = s.halt := rfl
@[simp] theorem State.jumpTo_dirty (s : State) (a : Word) : (s.jumpTo a).dirty = s.dirty := rfl
@[simp] theorem State.jumpTo_cfg (s : State) (a : Word) : (s.jumpTo a).cfg = s.cfg := rfl
@[simp] theorem State.jumpTo_oracle (s : State) (a : Word) : (s.jumpTo a).oracle = s.oracle := rfl
@[simp] theorem State.jumpTo_schedule (s : State) (a : Word) : (s.jumpTo a).schedule = s.schedule := rfl
@[simp] theorem State.jumpTo_reg (s : State) (a : Word) (q : Nibble) : (s.jumpTo a).reg q = s.reg q := rfl

/-! ### advance -/

@[simp] theorem State.advance_v (s : State) : (s.advance).v = s.v := rfl
@[simp] theorem State.advance_i (s : State) : (s.advance).i = s.i := rfl
@[simp] theorem State.advance_pc (s : State) : (s.advance).pc = s.pc + 2#16 := rfl
@[simp] theorem State.advance_stack (s : State) : (s.advance).stack = s.stack := rfl
@[simp] theorem State.advance_mem (s : State) : (s.advance).mem = s.mem := rfl
@[simp] theorem State.advance_disp (s : State) : (s.advance).disp = s.disp := rfl
@[simp] theorem State.advance_key (s : State) : (s.advance).key = s.key := rfl
@[simp] theorem State.advance_dt (s : State) : (s.advance).dt = s.dt := rfl
@[simp] theorem State.advance_st (s : State) : (s.advance).st = s.st := rfl
@[simp] theorem State.advance_run (s : State) : (s.advance).run = s.run := rfl
@[simp] theorem State.advance_halt (s : State) : (s.advance).halt = s.halt := rfl
@[simp] theorem State.advance_dirty (s : State) : (s.advance).dirty = s.dirty := rfl
@[simp] theorem State.advance_cfg (s : State) : (s.advance).cfg = s.cfg := rfl
@[simp] theorem State.advance_oracle (s : State) : (s.advance).oracle = s.oracle := rfl
@[simp] theorem State.advance_schedule (s : State) : (s.advance).schedule = s.schedule := rfl
@[simp] theorem State.advance_reg (s : State) (q : Nibble) : (s.advance).reg q = s.reg q := rfl

/-! ### skipIf -/

@[simp] theorem State.skipIf_v (s : State) (c : Bool) : (s.skipIf c).v = s.v := by cases c <;> rfl
@[simp] theorem State.skipIf_i (s : State) (c : Bool) : (s.skipIf c).i = s.i := by cases c <;> rfl
@[simp] theorem State.skipIf_stack (s : State) (c : Bool) : (s.skipIf c).stack = s.stack := by cases c <;> rfl
@[simp] theorem State.skipIf_mem (s : State) (c : Bool) : (s.skipIf c).mem = s.mem := by cases c <;> rfl
@[simp] theorem State.skipIf_disp (s : State) (c : Bool) : (s.skipIf c).disp = s.disp := by cases c <;> rfl
@[simp] theorem State.skipIf_key (s : State) (c : Bool) : (s.skipIf c).key = s.key := by cases c <;> rfl
@[simp] theorem State.skipIf_dt (s : State) (c : Bool) : (s.skipIf c).dt = s.dt := by cases c <;> rfl
@[simp] theorem State.skipIf_st (s : State) (c : Bool) : (s.skipIf c).st = s.st := by cases c <;> rfl
@[simp] theorem State.skipIf_run (s : State) (c : Bool) : (s.skipIf c).run = s.run := by cases c <;> rfl
@[simp] theorem State.skipIf_halt (s : State) (c : Bool) : (s.skipIf c).halt = s.halt := by cases c <;> rfl
@[simp] theorem State.skipIf_dirty (s : State) (c : Bool) : (s.skipIf c).dirty = s.dirty := by cases c <;> rfl
@[simp] theorem State.skipIf_cfg (s : State) (c : Bool) : (s.skipIf c).cfg = s.cfg := by cases c <;> rfl
@[simp] theorem State.skipIf_oracle (s : State) (c : Bool) : (s.skipIf c).oracle = s.oracle := by cases c <;> rfl
@[simp] theorem State.skipIf_schedule (s : State) (c : Bool) : (s.skipIf c).schedule = s.schedule := by cases c <;> rfl
@[simp] theorem State.skipIf_reg (s : State) (c : Bool) (q : Nibble) : (s.skipIf c).reg q = s.reg q := by cases c <;> rfl

/-! ### setDelay -/

@[simp] theorem State.setDelay_v (s : State) (b : Byte) : (s.setDelay b).v = s.v := rfl
@[simp] theorem State.setDelay_i (s : State) (b : Byte) : (s.setDelay b).i = s.i := rfl
@[simp] theorem State.setDelay_pc (s : State) (b : Byte) : (s.setDelay b).pc = s.pc := rfl
@[simp] theorem State.setDelay_stack (s : State) (b : Byte) : (s.setDelay b).stack = s.stack := rfl
@[simp] theorem State.setDelay_mem (s : State) (b : Byte) : (s.setDelay b).mem = s.mem := rfl
@[simp] theorem State.setDelay_disp (s : State) (b : Byte) : (s.setDelay b).disp = s.disp := rfl
@[simp] theorem State.setDelay_key (s : State) (b : Byte) : (s.setDelay b).key = s.key := rfl
@[simp] theorem State.setDelay_dt (s : State) (b : Byte) : (s.setDelay b).dt = b := rfl
@[simp] theorem State.setDelay_st (s : State) (b : Byte) : (s.setDelay b).st = s.st := rfl
@[simp] theorem State.setDelay_run (s : State) (b : Byte) : (s.setDelay b).run = s.run := rfl
@[simp] theorem State.setDelay_halt (s : State) (b : Byte) : (s.setDelay b).halt = s.halt := rfl
@[simp] theorem State.setDelay_dirty (s : State) (b : Byte) : (s.setDelay b).dirty = s.dirty := rfl
@[simp] theorem State.setDelay_cfg (s : State) (b : Byte) : (s.setDelay b).cfg = s.cfg := rfl
@[simp] theorem State.setDelay_oracle (s : State) (b : Byte) : (s.setDelay b).oracle = s.oracle := rfl
@[simp] theorem State.setDelay_schedule (s : State) (b : Byte) : (s.setDelay b).schedule = s.schedule := rfl
@[simp] theorem State.setDelay_reg (s : State) (b : Byte) (q : Nibble) : (s.setDelay b).reg q = s.reg q := rfl

/-! ### setSound -/

@[simp] theorem State.setSound_v (s : State) (b : Byte) : (s.setSound b).v = s.v := rfl
@[simp] theorem State.setSound_i (s : State) (b : Byte) : (s.setSound b).i = s.i := rfl
@[simp] theorem State.setSound_pc (s : State) (b : Byte) : (s.setSound b).pc = s.pc := rfl
@[simp] theorem State.setSound_stack (s : State) (b : Byte) : (s.setSound b).stack = s.stack := rfl
@[simp] theorem State.setSound_mem (s : State) (b : Byte) : (s.setSound b).mem = s.mem := rfl
@[simp] theorem State.setSound_disp (s : State) (b : Byte) : (s.setSound b).disp = s.disp := rfl
@[simp] theorem State.setSound_key (s : State) (b : Byte) : (s.setSound b).key = s.key := rfl
@[simp] theorem State.setSound_dt (s : State) (b : Byte) : (s.setSound b).dt = s.dt := rfl
@[simp] theorem State.setSound_st (s : State) (b : Byte) : (s.setSound b).st = b := rfl
@[simp] theorem State.setSound_run (s : State) (b : Byte) : (s.setSound b).run = s.run := rfl
@[simp] theorem State.setSound_halt (s : State) (b : Byte) : (s.setSound b).halt = s.halt := rfl
@[simp] theorem State.setSound_dirty (s : State) (b : Byte) : (s.setSound b).dirty = s.dirty := rfl
@[simp] theorem State.setSound_cfg (s : State) (b : Byte) : (s.setSound b).cfg = s.cfg := rfl
@[simp] theorem State.setSound_oracle (s : State) (b : Byte) : (s.setSound b).oracle = s.oracle := rfl
@[simp] theorem State.setSound_schedule (s : State) (b : Byte) : (s.setSound b).schedule = s.schedule := rfl
@[simp] theorem State.setSound_reg (s : State) (b : Byte) (q : Nibble) : (s.setSound b).reg q = s.reg q := rfl

/-! ### setMem -/

@[simp] theorem State.setMem_v (s : State) (m : Memory) : (s.setMem m).v = s.v := rfl
@[simp] theorem State.setMem_i (s : State) (m : Memory) : (s.setMem m).i = s.i := rfl
@[simp] theorem State.setMem_pc (s : State) (m : Memory) : (s.setMem m).pc = s.pc := rfl
@[simp] theorem State.setMem_stack (s : State) (m : Memory) : (s.setMem m).stack = s.stack := rfl
@[simp] theorem State.setMem_mem (s : State) (m : Memory) : (s.setMem m).mem = m := rfl
@[simp] theorem State.setMem_disp (s : State) (m : Memory) : (s.setMem m).disp = s.disp := rfl
@[simp] theorem State.setMem_key (s : State) (m : Memory) : (s.setMem m).key = s.key := rfl
@[simp] theorem State.setMem_dt (s : State) (m : Memory) : (s.setMem m).dt = s.dt := rfl
@[simp] theorem State.setMem_st (s : State) (m : Memory) : (s.setMem m).st = s.st := rfl
@[simp] theorem State.setMem_run (s : State) (m : Memory) : (s.setMem m).run = s.run := rfl
@[simp] theorem State.setMem_halt (s : State) (m : Memory) : (s.setMem m).halt = s.halt := rfl
@[simp] theorem State.setMem_dirty (s : State) (m : Memory) : (s.setMem m).dirty = s.dirty := rfl
@[simp] theorem State.setMem_cfg (s : State) (m : Memory) : (s.setMem m).cfg = s.cfg := rfl
@[simp] theorem State.setMem_oracle (s : State) (m : Memory) : (s.setMem m).oracle = s.oracle := rfl
@[simp] theorem State.setMem_schedule (s : State) (m : Memory) : (s.setMem m).schedule = s.schedule := rfl
@[simp] theorem State.setMem_reg (s : State) (m : Memory) (q : Nibble) : (s.setMem m).reg q = s.reg q := rfl

/-! ### setDisplay -/

@[simp] theorem State.setDisplay_v (s : State) (d : Display) : (s.setDisplay d).v = s.v := rfl
@[simp] theorem State.setDisplay_i (s : State) (d : Display) : (s.setDisplay d).i = s.i := rfl
@[simp] theorem State.setDisplay_pc (s : State) (d : Display) : (s.setDisplay d).pc = s.pc := rfl
@[simp] theorem State.setDisplay_stack (s : State) (d : Display) : (s.setDisplay d).stack = s.stack := rfl
@[simp] theorem State.setDisplay_mem (s : State) (d : Display) : (s.setDisplay d).mem = s.mem := rfl
@[simp] theorem State.setDisplay_disp (s : State) (d : Display) : (s.setDisplay d).disp = d := rfl
@[simp] theorem State.setDisplay_key (s : State) (d : Display) : (s.setDisplay d).key = s.key := rfl
@[simp] theorem State.setDisplay_dt (s : State) (d : Display) : (s.setDisplay d).dt = s.dt := rfl
@[simp] theorem State.setDisplay_st (s : State) (d : Display) : (s.setDisplay d).st = s.st := rfl
@[simp] theorem State.setDisplay_run (s : State) (d : Display) : (s.setDisplay d).run = s.run := rfl
@[simp] theorem State.setDisplay_halt (s : State) (d : Display) : (s.setDisplay d).halt = s.halt := rfl
@[simp] theorem State.setDisplay_dirty (s : State) (d : Display) : (s.setDisplay d).dirty = true := rfl
@[simp] theorem State.setDisplay_cfg (s : State) (d : Display) : (s.setDisplay d).cfg = s.cfg := rfl
@[simp] theorem State.setDisplay_oracle (s : State) (d : Display) : (s.setDisplay d).oracle = s.oracle := rfl
@[simp] theorem State.setDisplay_schedule (s : State) (d : Display) : (s.setDisplay d).schedule = s.schedule := rfl
@[simp] theorem State.setDisplay_reg (s : State) (d : Display) (q : Nibble) : (s.setDisplay d).reg q = s.reg q := rfl

/-! ### takeAnswer -/

@[simp] theorem State.takeAnswer_v (s : State) : (s.takeAnswer).v = s.v := rfl
@[simp] theorem State.takeAnswer_i (s : State) : (s.takeAnswer).i = s.i := rfl
@[simp] theorem State.takeAnswer_pc (s : State) : (s.takeAnswer).pc = s.pc := rfl
@[simp] theorem State.takeAnswer_stack (s : State) : (s.takeAnswer).stack = s.stack := rfl
@[simp] theorem State.takeAnswer_mem (s : State) : (s.takeAnswer).mem = s.mem := rfl
@[simp] theorem State.takeAnswer_disp (s : State) : (s.takeAnswer).disp = s.disp := rfl
@[simp] theorem State.takeAnswer_key (s : State) : (s.takeAnswer).key = s.key := rfl
@[simp] theorem State.takeAnswer_dt (s : State) : (s.takeAnswer).dt = s.dt := rfl
@[simp] theorem State.takeAnswer_st (s : State) : (s.takeAnswer).st = s.st := rfl
@[simp] theorem State.takeAnswer_run (s : State) : (s.takeAnswer).run = s.run := rfl
@[simp] theorem State.takeAnswer_halt (s : State) : (s.takeAnswer).halt = s.halt := rfl
@[simp] theorem State.takeAnswer_dirty (s : State) : (s.takeAnswer).dirty = s.dirty := rfl
@[simp] theorem State.takeAnswer_cfg (s : State) : (s.takeAnswer).cfg = s.cfg := rfl
@[simp] theorem State.takeAnswer_oracle (s : State) : (s.takeAnswer).oracle = s.oracle + 1 := rfl
@[simp] theorem State.takeAnswer_schedule (s : State) : (s.takeAnswer).schedule = s.schedule := rfl
@[simp] theorem State.takeAnswer_reg (s : State) (q : Nibble) : (s.takeAnswer).reg q = s.reg q := rfl

/-! ### haltWith -/

@[simp] theorem State.haltWith_v (s : State) (r : HaltReason) (p : Word) (w : Option Word) : (s.haltWith r p w).v = s.v := rfl
@[simp] theorem State.haltWith_i (s : State) (r : HaltReason) (p : Word) (w : Option Word) : (s.haltWith r p w).i = s.i := rfl
@[simp] theorem State.haltWith_pc (s : State) (r : HaltReason) (p : Word) (w : Option Word) : (s.haltWith r p w).pc = s.pc := rfl
@[simp] theorem State.haltWith_stack (s : State) (r : HaltReason) (p : Word) (w : Option Word) : (s.haltWith r p w).stack = s.stack := rfl
@[simp] theorem State.haltWith_mem (s : State) (r : HaltReason) (p : Word) (w : Option Word) : (s.haltWith r p w).mem = s.mem := rfl
@[simp] theorem State.haltWith_disp (s : State) (r : HaltReason) (p : Word) (w : Option Word) : (s.haltWith r p w).disp = s.disp := rfl
@[simp] theorem State.haltWith_key (s : State) (r : HaltReason) (p : Word) (w : Option Word) : (s.haltWith r p w).key = s.key := rfl
@[simp] theorem State.haltWith_dt (s : State) (r : HaltReason) (p : Word) (w : Option Word) : (s.haltWith r p w).dt = s.dt := rfl
@[simp] theorem State.haltWith_st (s : State) (r : HaltReason) (p : Word) (w : Option Word) : (s.haltWith r p w).st = s.st := rfl
@[simp] theorem State.haltWith_run (s : State) (r : HaltReason) (p : Word) (w : Option Word) : (s.haltWith r p w).run = .halted := rfl
@[simp] theorem State.haltWith_halt (s : State) (r : HaltReason) (p : Word) (w : Option Word) : (s.haltWith r p w).halt = some ⟨r, p, w⟩ := rfl
@[simp] theorem State.haltWith_dirty (s : State) (r : HaltReason) (p : Word) (w : Option Word) : (s.haltWith r p w).dirty = s.dirty := rfl
@[simp] theorem State.haltWith_cfg (s : State) (r : HaltReason) (p : Word) (w : Option Word) : (s.haltWith r p w).cfg = s.cfg := rfl
@[simp] theorem State.haltWith_oracle (s : State) (r : HaltReason) (p : Word) (w : Option Word) : (s.haltWith r p w).oracle = s.oracle := rfl
@[simp] theorem State.haltWith_schedule (s : State) (r : HaltReason) (p : Word) (w : Option Word) : (s.haltWith r p w).schedule = s.schedule := rfl
@[simp] theorem State.haltWith_reg (s : State) (r : HaltReason) (p : Word) (w : Option Word) (q : Nibble) : (s.haltWith r p w).reg q = s.reg q := rfl

/-! ### loadRegs -/

@[simp] theorem State.loadRegs_i (s : State) (x : Nibble) : (s.loadRegs x).i = s.i := rfl
@[simp] theorem State.loadRegs_pc (s : State) (x : Nibble) : (s.loadRegs x).pc = s.pc := rfl
@[simp] theorem State.loadRegs_stack (s : State) (x : Nibble) : (s.loadRegs x).stack = s.stack := rfl
@[simp] theorem State.loadRegs_mem (s : State) (x : Nibble) : (s.loadRegs x).mem = s.mem := rfl
@[simp] theorem State.loadRegs_disp (s : State) (x : Nibble) : (s.loadRegs x).disp = s.disp := rfl
@[simp] theorem State.loadRegs_key (s : State) (x : Nibble) : (s.loadRegs x).key = s.key := rfl
@[simp] theorem State.loadRegs_dt (s : State) (x : Nibble) : (s.loadRegs x).dt = s.dt := rfl
@[simp] theorem State.loadRegs_st (s : State) (x : Nibble) : (s.loadRegs x).st = s.st := rfl
@[simp] theorem State.loadRegs_run (s : State) (x : Nibble) : (s.loadRegs x).run = s.run := rfl
@[simp] theorem State.loadRegs_halt (s : State) (x : Nibble) : (s.loadRegs x).halt = s.halt := rfl
@[simp] theorem State.loadRegs_dirty (s : State) (x : Nibble) : (s.loadRegs x).dirty = s.dirty := rfl
@[simp] theorem State.loadRegs_cfg (s : State) (x : Nibble) : (s.loadRegs x).cfg = s.cfg := rfl
@[simp] theorem State.loadRegs_oracle (s : State) (x : Nibble) : (s.loadRegs x).oracle = s.oracle := rfl
@[simp] theorem State.loadRegs_schedule (s : State) (x : Nibble) : (s.loadRegs x).schedule = s.schedule := rfl

/-! ### setResultFlag -/

@[simp] theorem State.setResultFlag_i (s : State) (x : Nibble) (r f : Byte) : (s.setResultFlag x r f).i = s.i := rfl
@[simp] theorem State.setResultFlag_pc (s : State) (x : Nibble) (r f : Byte) : (s.setResultFlag x r f).pc = s.pc := rfl
@[simp] theorem State.setResultFlag_stack (s : State) (x : Nibble) (r f : Byte) : (s.setResultFlag x r f).stack = s.stack := rfl
@[simp] theorem State.setResultFlag_mem (s : State) (x : Nibble) (r f : Byte) : (s.setResultFlag x r f).mem = s.mem := rfl
@[simp] theorem State.setResultFlag_disp (s : State) (x : Nibble) (r f : Byte) : (s.setResultFlag x r f).disp = s.disp := rfl
@[simp] theorem State.setResultFlag_key (s : State) (x : Nibble) (r f : Byte) : (s.setResultFlag x r f).key = s.key := rfl
@[simp] theorem State.setResultFlag_dt (s : State) (x : Nibble) (r f : Byte) : (s.setResultFlag x r f).dt = s.dt := rfl
@[simp] theorem State.setResultFlag_st (s : State) (x : Nibble) (r f : Byte) : (s.setResultFlag x r f).st = s.st := rfl
@[simp] theorem State.setResultFlag_run (s : State) (x : Nibble) (r f : Byte) : (s.setResultFlag x r f).run = s.run := rfl
@[simp] theorem State.setResultFlag_halt (s : State) (x : Nibble) (r f : Byte) : (s.setResultFlag x r f).halt = s.halt := rfl
@[simp] theorem State.setResultFlag_dirty (s : State) (x : Nibble) (r f : Byte) : (s.setResultFlag x r f).dirty = s.dirty := rfl
@[simp] theorem State.setResultFlag_cfg (s : State) (x : Nibble) (r f : Byte) : (s.setResultFlag x r f).cfg = s.cfg := rfl
@[simp] theorem State.setResultFlag_oracle (s : State) (x : Nibble) (r f : Byte) : (s.setResultFlag x r f).oracle = s.oracle := rfl
@[simp] theorem State.setResultFlag_schedule (s : State) (x : Nibble) (r f : Byte) : (s.setResultFlag x r f).schedule = s.schedule := rfl

/-! ### setLogic -/

@[simp] theorem State.setLogic_i (s : State) (x : Nibble) (r : Byte) : (s.setLogic x r).i = s.i := by unfold State.setLogic; split <;> rfl
@[simp] theorem State.setLogic_pc (s : State) (x : Nibble) (r : Byte) : (s.setLogic x r).pc = s.pc := by unfold State.setLogic; split <;> rfl
@[simp] theorem State.setLogic_stack (s : State) (x : Nibble) (r : Byte) : (s.setLogic x r).stack = s.stack := by unfold State.setLogic; split <;> rfl
@[simp] theorem State.setLogic_mem (s : State) (x : Nibble) (r : Byte) : (s.setLogic x r).mem = s.mem := by unfold State.setLogic; split <;> rfl
@[simp] theorem State.setLogic_disp (s : State) (x : Nibble) (r : Byte) : (s.setLogic x r).disp = s.disp := by unfold State.setLogic; split <;> rfl
@[simp] theorem State.setLogic_key (s : State) (x : Nibble) (r : Byte) : (s.setLogic x r).key = s.key := by unfold State.setLogic; split <;> rfl
@[simp] theorem State.setLogic_dt (s : State) (x : Nibble) (r : Byte) : (s.setLogic x r).dt = s.dt := by unfold State.setLogic; split <;> rfl
@[simp] theorem State.setLogic_st (s : State) (x : Nibble) (r : Byte) : (s.setLogic x r).st = s.st := by unfold State.setLogic; split <;> rfl
@[simp] theorem State.setLogic_run (s : State) (x : Nibble) (r : Byte) : (s.setLogic x r).run = s.run := by unfold State.setLogic; split <;> rfl
@[simp] theorem State.setLogic_halt (s : State) (x : Nibble) (r : Byte) : (s.setLogic x r).halt = s.halt := by unfold State.setLogic; split <;> rfl
@[simp] theorem State.setLogic_dirty (s : State) (x : Nibble) (r : Byte) : (s.setLogic x r).dirty = s.dirty := by unfold State.setLogic; split <;> rfl
@[simp] theorem State.setLogic_cfg (s : State) (x : Nibble) (r : Byte) : (s.setLogic x r).cfg = s.cfg := by unfold State.setLogic; split <;> rfl
@[simp] theorem State.setLogic_oracle (s : State) (x : Nibble) (r : Byte) : (s.setLogic x r).oracle = s.oracle := by unfold State.setLogic; split <;> rfl
@[simp] theorem State.setLogic_schedule (s : State) (x : Nibble) (r : Byte) : (s.setLogic x r).schedule = s.schedule := by unfold State.setLogic; split <;> rfl

/-! ### What the updates of V and PC write -/

theorem State.skipIf_pc (s : State) (c : Bool) : (s.skipIf c).pc = if c then s.pc + 2#16 else s.pc := by
  cases c <;> rfl

/-- A register reads as the last value written to it. -/
theorem State.reg_setReg (s : State) (x q : Nibble) (b : Byte) :
    (s.setReg x b).reg q = if q = x then b else s.reg q := by
  unfold State.reg State.setReg
  split
  · subst_vars; simp
  · rename_i h
    rw [Vector.getElem_set_ne]
    exact fun e => h (BitVec.eq_of_toNat_eq e.symm)

@[simp] theorem State.setReg_reg_self (s : State) (x : Nibble) (b : Byte) : (s.setReg x b).reg x = b := by
  simp [State.reg_setReg]

@[simp] theorem State.setReg_reg_ne (s : State) {x q : Nibble} (b : Byte) (h : q ≠ x) :
    (s.setReg x b).reg q = s.reg q := by
  simp [State.reg_setReg, h]

/-- Result, then flag: VF holds the flag, whatever the destination (R151). -/
theorem State.reg_setResultFlag (s : State) (x q : Nibble) (r f : Byte) :
    (s.setResultFlag x r f).reg q = if q = flagReg then f else if q = x then r else s.reg q := by
  simp only [State.setResultFlag, State.reg_setReg]

/-- OR, AND, XOR write V[x], and VF only under `LOGIC_VF_RESET` (R153-R155). -/
theorem State.reg_setLogic (s : State) (x q : Nibble) (r : Byte) :
    (s.setLogic x r).reg q =
      if s.cfg.logicVfReset = true ∧ q = flagReg then 0#8 else if q = x then r else s.reg q := by
  unfold State.setLogic
  split <;> rename_i h <;> simp [State.reg_setReg, h]

/-- LOAD writes V0 to VX from I and on (R175). -/
theorem State.reg_loadRegs (s : State) (x q : Nibble) :
    (s.loadRegs x).reg q = if q.toNat ≤ x.toNat then s.mem.read (s.base + q.toNat) else s.reg q := by
  simp [State.loadRegs, State.reg]

end Sys2Proof.Machine
end

