-- ==== Sys2Proof/Laws/Ops.lean ====
section
/-! SUPPORT. What the shared operations over stack, operands and addresses can do, one lemma each. -/

namespace Sys2Proof.Machine

/-- `Push` (R30): it fails on a full stack only, and otherwise appends the address. -/
theorem State.push_eq (s : State) (a : Word) :
    s.push a = if s.stack.length = s.cfg.stackDepth then none else some { s with stack := s.stack ++ [a] } := rfl

theorem State.push_eq_some {s t : State} {a : Word} :
    s.push a = some t ↔ s.stack.length ≠ s.cfg.stackDepth ∧ t = { s with stack := s.stack ++ [a] } := by
  rw [State.push_eq]
  split <;> simp_all [eq_comm]

/-- `Pop` (R30): it fails on an empty stack only, and otherwise takes the last entry off. -/
theorem State.pop_eq_some {s t : State} {a : Word} :
    s.pop = some (a, t) ↔ s.stack.getLast? = some a ∧ t = { s with stack := s.stack.dropLast } := by
  unfold State.pop
  split <;> rename_i h <;> simp [h, eq_comm]

theorem State.pop_eq_none {s : State} : s.pop = none ↔ s.stack = [] := by
  unfold State.pop
  split <;> rename_i h
  · simpa using h
  · simp only [reduceCtorEq, false_iff]
    rintro e
    simp [e] at h

/-- The bounds check of a span of addresses (R47, R48). -/
theorem State.spanInBounds_iff (s : State) (n : Nat) :
    s.spanInBounds n = true ↔ n = 0 ∨ s.i.toNat + n ≤ memSize := by
  rw [State.spanInBounds, decide_eq_true_iff, State.base, memSize]
  omega

/-- An index in range (R172, R187). -/
theorem hexIndex_eq_some {b : Byte} {k : Fin 16} : hexIndex b = some k ↔ b.toNat = k.val := by
  unfold hexIndex
  split
  · rw [Option.some.injEq, Fin.ext_iff]
  · rename_i h
    simp only [reduceCtorEq, false_iff]
    have := k.isLt
    omega

theorem hexIndex_eq_none {b : Byte} : hexIndex b = none ↔ 0xF < b.toNat := by
  unfold hexIndex
  split <;> simp <;> omega

/-- A key is picked unless none is down, and it is one that is down (R190). -/
theorem pickKey_eq_none {down : List (Fin 16)} {n : Nat} : pickKey down n = none ↔ down = [] := by
  unfold pickKey
  split <;> simp

theorem pickKey_mem {down : List (Fin 16)} {n : Nat} {k : Fin 16} (h : pickKey down n = some k) : k ∈ down := by
  unfold pickKey at h
  split at h
  · cases h
  · cases h
    simp
  · rename_i a rest _
    cases h
    have hlt : n % (rest.length + 1) < (a :: rest).length := Nat.mod_lt _ (Nat.succ_pos _)
    rw [List.getD_eq_getElem?_getD, List.getElem?_eq_getElem hlt, Option.getD_some]
    exact List.getElem_mem hlt

theorem State.mem_keysDown (s : State) (k : Fin 16) : k ∈ s.keysDown ↔ s.key[k] = true := by
  simp [State.keysDown]

/-- The registers STORE writes (R174). -/
theorem State.regsUpTo_length (s : State) (x : Nibble) : (s.regsUpTo x).length = x.toNat + 1 := by
  have := x.isLt
  simp only [State.regsUpTo, List.length_take, Vector.length_toList]
  omega

theorem State.regsUpTo_getD (s : State) (x : Nibble) {k : Nat} (h : k ≤ x.toNat) :
    (s.regsUpTo x).getD k 0#8 = s.reg (BitVec.ofNat 4 k) := by
  have hx := x.isLt
  have hk : k < 16 := by omega
  have hm : k % 16 = k := Nat.mod_eq_of_lt hk
  rw [State.regsUpTo, List.getD_eq_getElem?_getD, List.getElem?_take]
  rw [if_pos (by omega)]
  simp [State.reg, hk, hm]

/-- Fetch (R88): both bytes must lie in memory. -/
theorem State.fetch_eq_none {s : State} : s.fetch = none ↔ 0xFFF ≤ s.pc.toNat := by
  unfold State.fetch
  split <;> simp <;> omega

/-- Construction with the defaults and FILL = 0 is reset. -/
theorem State.construct_default : State.construct Config.default (fun _ => 0#8) = State.reset := by
  rw [State.construct, Memory.construct_zero]
  rfl

end Sys2Proof.Machine
end

