-- ==== Sys2Proof/Laws/PerInstr.lean ====
section
/-! SUPPORT. For every instruction: its word matches the opcode-table row of its own mnemonic. -/

namespace Sys2Proof.Laws.TableRow

/-- The word of `i` matches the row of spec/opcode_table.json that carries `i`'s mnemonic, and the row is in
the minimal profile exactly when `i` is. -/
def Statement (i : Instr) : Prop :=
  ∃ r ∈ opcodeTable, r.mnemonic = i.mnemonic ∧ r.inBoth = i.documented ∧ r.covers (encode i) = true

/-- A row covers the word that its mask turns into its pattern. -/
theorem covers_of_masked {m : String} {w mask pattern : Word} {b : Bool} (h : w &&& mask = pattern) :
    (OpcodeRow.mk m pattern mask b).covers w = true := by
  simp [OpcodeRow.covers, h]

theorem clear : Statement .clear :=
  ⟨⟨"CLEAR", 0x00E0, 0xFFFF, true⟩, by decide, rfl, rfl, by decide⟩

theorem ret : Statement .ret :=
  ⟨⟨"RETURN", 0x00EE, 0xFFFF, false⟩, by decide, rfl, rfl, by decide⟩

theorem jump (nnn : Addr) : Statement (.jump nnn) :=
  ⟨⟨"JUMP_NNN", 0x1000, 0xF000, true⟩, by decide, rfl, rfl, covers_of_masked (formNNN_masked _ _)⟩

theorem call (nnn : Addr) : Statement (.call nnn) :=
  ⟨⟨"CALL_NNN", 0x2000, 0xF000, false⟩, by decide, rfl, rfl, covers_of_masked (formNNN_masked _ _)⟩

theorem skipEqImm (x : Nibble) (nn : Byte) : Statement (.skipEqImm x nn) :=
  ⟨⟨"SKIP.EQ_VX__NN", 0x3000, 0xF000, false⟩, by decide, rfl, rfl, covers_of_masked (formXNN_masked_family _ _ _)⟩

theorem skipNeImm (x : Nibble) (nn : Byte) : Statement (.skipNeImm x nn) :=
  ⟨⟨"SKIP.NE_VX__NN", 0x4000, 0xF000, false⟩, by decide, rfl, rfl, covers_of_masked (formXNN_masked_family _ _ _)⟩

theorem skipEqReg (x y : Nibble) : Statement (.skipEqReg x y) :=
  ⟨⟨"SKIP.EQ_VX__VY", 0x5000, 0xF00F, false⟩, by decide, rfl, rfl, covers_of_masked (formXYN_masked_tail _ _ _ _)⟩

theorem setImm (x : Nibble) (nn : Byte) : Statement (.setImm x nn) :=
  ⟨⟨"SET_VX__NN", 0x6000, 0xF000, true⟩, by decide, rfl, rfl, covers_of_masked (formXNN_masked_family _ _ _)⟩

theorem addImm (x : Nibble) (nn : Byte) : Statement (.addImm x nn) :=
  ⟨⟨"ADD_VX__NN", 0x7000, 0xF000, true⟩, by decide, rfl, rfl, covers_of_masked (formXNN_masked_family _ _ _)⟩

theorem setReg (x y : Nibble) : Statement (.setReg x y) :=
  ⟨⟨"SET_VX__VY", 0x8000, 0xF00F, false⟩, by decide, rfl, rfl, covers_of_masked (formXYN_masked_tail _ _ _ _)⟩

theorem orReg (x y : Nibble) : Statement (.orReg x y) :=
  ⟨⟨"OR_VX__VY", 0x8001, 0xF00F, false⟩, by decide, rfl, rfl, covers_of_masked (formXYN_masked_tail _ _ _ _)⟩

theorem andReg (x y : Nibble) : Statement (.andReg x y) :=
  ⟨⟨"AND_VX__VY", 0x8002, 0xF00F, false⟩, by decide, rfl, rfl, covers_of_masked (formXYN_masked_tail _ _ _ _)⟩

theorem xorReg (x y : Nibble) : Statement (.xorReg x y) :=
  ⟨⟨"XOR_VX__VY", 0x8003, 0xF00F, false⟩, by decide, rfl, rfl, covers_of_masked (formXYN_masked_tail _ _ _ _)⟩

theorem addReg (x y : Nibble) : Statement (.addReg x y) :=
  ⟨⟨"ADD_VX__VY", 0x8004, 0xF00F, false⟩, by decide, rfl, rfl, covers_of_masked (formXYN_masked_tail _ _ _ _)⟩

theorem subReg (x y : Nibble) : Statement (.subReg x y) :=
  ⟨⟨"SUB_VX__VY", 0x8005, 0xF00F, false⟩, by decide, rfl, rfl, covers_of_masked (formXYN_masked_tail _ _ _ _)⟩

theorem shr (x y : Nibble) : Statement (.shr x y) :=
  ⟨⟨"SHR_VX__VY", 0x8006, 0xF00F, false⟩, by decide, rfl, rfl, covers_of_masked (formXYN_masked_tail _ _ _ _)⟩

theorem subn (x y : Nibble) : Statement (.subn x y) :=
  ⟨⟨"SUBN_VX__VY", 0x8007, 0xF00F, false⟩, by decide, rfl, rfl, covers_of_masked (formXYN_masked_tail _ _ _ _)⟩

theorem shl (x y : Nibble) : Statement (.shl x y) :=
  ⟨⟨"SHL_VX__VY", 0x800E, 0xF00F, false⟩, by decide, rfl, rfl, covers_of_masked (formXYN_masked_tail _ _ _ _)⟩

theorem skipNeReg (x y : Nibble) : Statement (.skipNeReg x y) :=
  ⟨⟨"SKIP.NE_VX__VY", 0x9000, 0xF00F, false⟩, by decide, rfl, rfl, covers_of_masked (formXYN_masked_tail _ _ _ _)⟩

theorem setI (nnn : Addr) : Statement (.setI nnn) :=
  ⟨⟨"SET_I__NNN", 0xA000, 0xF000, true⟩, by decide, rfl, rfl, covers_of_masked (formNNN_masked _ _)⟩

theorem jumpV0 (nnn : Addr) : Statement (.jumpV0 nnn) :=
  ⟨⟨"JUMP_V0__NNN", 0xB000, 0xF000, false⟩, by decide, rfl, rfl, covers_of_masked (formNNN_masked _ _)⟩

theorem rand (x : Nibble) (nn : Byte) : Statement (.rand x nn) :=
  ⟨⟨"RAND_VX__NN", 0xC000, 0xF000, false⟩, by decide, rfl, rfl, covers_of_masked (formXNN_masked_family _ _ _)⟩

theorem draw (x y n : Nibble) : Statement (.draw x y n) :=
  ⟨⟨"DRAW_VX__VY__N", 0xD000, 0xF000, true⟩, by decide, rfl, rfl, covers_of_masked (formXYN_masked_family _ _ _ _)⟩

theorem skipKey (x : Nibble) : Statement (.skipKey x) :=
  ⟨⟨"SKIP.KEY_VX", 0xE09E, 0xF0FF, false⟩, by decide, rfl, rfl, covers_of_masked (formXNN_masked_tail _ _ _)⟩

theorem skipNkey (x : Nibble) : Statement (.skipNkey x) :=
  ⟨⟨"SKIP.NKEY_VX", 0xE0A1, 0xF0FF, false⟩, by decide, rfl, rfl, covers_of_masked (formXNN_masked_tail _ _ _)⟩

theorem getDt (x : Nibble) : Statement (.getDt x) :=
  ⟨⟨"GET_VX__DT", 0xF007, 0xF0FF, false⟩, by decide, rfl, rfl, covers_of_masked (formXNN_masked_tail _ _ _)⟩

theorem waitKey (x : Nibble) : Statement (.waitKey x) :=
  ⟨⟨"WAITKEY_VX", 0xF00A, 0xF0FF, false⟩, by decide, rfl, rfl, covers_of_masked (formXNN_masked_tail _ _ _)⟩

theorem setDt (x : Nibble) : Statement (.setDt x) :=
  ⟨⟨"SET_DT__VX", 0xF015, 0xF0FF, false⟩, by decide, rfl, rfl, covers_of_masked (formXNN_masked_tail _ _ _)⟩

theorem setSt (x : Nibble) : Statement (.setSt x) :=
  ⟨⟨"SET_ST__VX", 0xF018, 0xF0FF, false⟩, by decide, rfl, rfl, covers_of_masked (formXNN_masked_tail _ _ _)⟩

theorem addI (x : Nibble) : Statement (.addI x) :=
  ⟨⟨"ADD_I__VX", 0xF01E, 0xF0FF, false⟩, by decide, rfl, rfl, covers_of_masked (formXNN_masked_tail _ _ _)⟩

theorem font (x : Nibble) : Statement (.font x) :=
  ⟨⟨"FONT_VX", 0xF029, 0xF0FF, false⟩, by decide, rfl, rfl, covers_of_masked (formXNN_masked_tail _ _ _)⟩

theorem bcd (x : Nibble) : Statement (.bcd x) :=
  ⟨⟨"BCD_VX", 0xF033, 0xF0FF, false⟩, by decide, rfl, rfl, covers_of_masked (formXNN_masked_tail _ _ _)⟩

theorem store (x : Nibble) : Statement (.store x) :=
  ⟨⟨"STORE_VX", 0xF055, 0xF0FF, false⟩, by decide, rfl, rfl, covers_of_masked (formXNN_masked_tail _ _ _)⟩

theorem load (x : Nibble) : Statement (.load x) :=
  ⟨⟨"LOAD_VX", 0xF065, 0xF0FF, false⟩, by decide, rfl, rfl, covers_of_masked (formXNN_masked_tail _ _ _)⟩

end Sys2Proof.Laws.TableRow
end

