-- ==== Sys2Proof/Laws/Step.lean ====
section
/-! SUPPORT. What a step can do: the events, the cycle, and one case lemma for each meaning that can take an
error or hold. -/

namespace Sys2Proof.Machine

/-- A word decodes when the opcode map has it and the profile admits it (R75). -/
theorem decode_eq_ok {p : Profile} {w : Word} {i : Instr} :
    decode p w = .ok i ↔ decodeStandard w = some i ∧ wellFormed p i = true := by
  unfold decode
  split
  · rename_i j h
    rw [h]
    split <;> rename_i hw <;> simp
    · rintro rfl; exact hw
    · rintro rfl; simpa using hw
  · rename_i h
    simp [h]

/-- A word that does not decode is unknown, by its own value (R76). -/
theorem decode_eq_error {p : Profile} {w : Word} (h : ∀ i, decode p w ≠ .ok i) :
    decode p w = .error (.unknownOpcode w) := by
  unfold decode at h ⊢
  split
  · rename_i j hj
    simp only [hj] at h
    split
    · rename_i hw
      simp only [hw, if_true] at h
      exact absurd rfl (h j)
    · rfl
  · rfl

@[simp] theorem State.dequeue_reg (s : State) (q : Nibble) : s.dequeue.reg q = s.reg q := rfl

theorem State.dequeue_of_empty {s : State} (h : s.schedule = []) : s.dequeue = s := by
  cases s
  simp only at h
  subst h
  rfl

theorem State.dequeue_cycle {s : State} {rest : List Event} (h : s.schedule = .cycle :: rest) :
    s.dequeue = { s with schedule := rest } := by
  rw [State.dequeue, h, List.tail_cons]

/-- When a cycle is due, the step is the cycle of the state with that event taken off (R218). -/
theorem step_of_cycleDue {s : State} (h : s.CycleDue) : step s = cycle s.dequeue := by
  unfold step nextEvent
  split
  · rename_i e
    rw [State.dequeue_of_empty e]
    rfl
  · rename_i a rest e
    cases a with
    | cycle => rw [State.dequeue_cycle e]; rfl
    | host a => exact absurd e (h a rest)

/-- When a host action is due, the step is that action (R218). -/
theorem step_of_host {s : State} {a : HostAction} {rest : List Event} (h : s.schedule = .host a :: rest) :
    step s = .next (State.hostAct a s.dequeue) := by
  have hd : s.dequeue = { s with schedule := rest } := by rw [State.dequeue, h, List.tail_cons]
  unfold step nextEvent
  rw [h, hd]
  rfl

/-- Either a cycle is due, or a host action is. -/
theorem State.due_cases (s : State) : s.CycleDue ∨ ∃ a rest, s.schedule = .host a :: rest := by
  by_cases h : ∃ a rest, s.schedule = .host a :: rest
  · exact .inr h
  · exact .inl fun a rest e => h ⟨a, rest, e⟩

/-- Everything a cycle that answers a next state can have done (R100): the engine was Running, and the fetch
failed, or the word is unknown, or the decoded instruction answered. -/
theorem cycle_cases {s t : State} (h : cycle s = .next t) :
    s.run = .running ∧
      ((s.fetch = none ∧ t = s.haltWith .outOfBoundsAccess s.pc none) ∨
       (∃ w, s.fetch = some w ∧ (∀ i, decode s.cfg.profile w ≠ .ok i) ∧ t = s.haltWith .unknownOpcode s.pc (some w)) ∨
       (∃ w i, s.fetch = some w ∧ decode s.cfg.profile w = .ok i ∧ exec i s = .next t)) := by
  unfold cycle at h
  split at h <;> try cases h
  rename_i hr
  refine ⟨hr, ?_⟩
  unfold State.runCycle at h
  split at h
  · rename_i w hw
    unfold State.executeWord at h
    split at h
    · rename_i i hi
      exact .inr (.inr ⟨w, i, hw, hi, h⟩)
    · rename_i e he
      cases h
      exact .inr (.inl ⟨w, hw, by simp [he], rfl⟩)
  · rename_i hw
    cases h
    exact .inl ⟨hw, rfl⟩

/-- A Running engine whose word decodes runs the instruction. -/
theorem cycle_of_decode {s : State} {w : Word} {i : Instr} (hr : s.run = .running) (hw : s.fetch = some w)
    (hi : decode s.cfg.profile w = .ok i) : cycle s = exec i s := by
  unfold cycle State.runCycle State.executeWord
  simp only [hr, hw, hi]

/-- What a fetch that succeeds reads (R88). -/
theorem State.fetch_eq_some {s : State} {w : Word} :
    s.fetch = some w ↔
      s.pc.toNat + 1 ≤ 0xFFF ∧ bigEndian (s.mem.read s.pc.toNat) (s.mem.read (s.pc.toNat + 1)) = w := by
  unfold State.fetch
  split <;> rename_i h <;> simp [h]

/-- RETURN pops or underflows (R131). -/
theorem execRet_cases (s : State) :
    (s.stack = [] ∧ execRet s = s.raise .stackUnderflow (encode .ret)) ∨
    (∃ a, s.stack.getLast? = some a ∧
      execRet s = .next { s with pc := a, stack := s.stack.dropLast }) := by
  unfold execRet
  split
  · rename_i a t h
    obtain ⟨h1, rfl⟩ := State.pop_eq_some.mp h
    exact .inr ⟨a, h1, rfl⟩
  · rename_i h
    exact .inl ⟨(State.pop_eq_none (s := s.advance)).mp h, rfl⟩

/-- CALL pushes the advanced PC or overflows (R132). -/
theorem execCall_cases (nnn : Addr) (s : State) :
    (s.stack.length = s.cfg.stackDepth ∧ execCall nnn s = s.raise .stackOverflow (encode (.call nnn))) ∨
    (s.stack.length ≠ s.cfg.stackDepth ∧
      execCall nnn s = .next { s with pc := zeroExtend16 nnn, stack := s.stack ++ [s.pc + 2#16] }) := by
  unfold execCall
  split
  · rename_i t h
    obtain ⟨h1, rfl⟩ := State.push_eq_some.mp h
    exact .inr ⟨h1, rfl⟩
  · rename_i h
    rw [State.push_eq] at h
    split at h
    · exact .inl ⟨by assumption, rfl⟩
    · cases h

/-- WAITKEY stores a key that is down, or holds (R190, R194). -/
theorem execWaitKey_cases (x : Nibble) (s : State) :
    ((∀ k : Fin 16, s.key[k] = false) ∧ execWaitKey x s = .next s) ∨
    (∃ k : Fin 16, s.key[k] = true ∧
      execWaitKey x s = .next ((s.advance.setReg x (BitVec.ofNat 8 k.val)).takeAnswer)) := by
  unfold execWaitKey
  split
  · rename_i k h
    exact .inr ⟨k, (s.mem_keysDown k).mp (pickKey_mem h), rfl⟩
  · rename_i h
    refine .inl ⟨fun k => ?_, rfl⟩
    have := pickKey_eq_none.mp h
    have hk := s.mem_keysDown k
    rw [this] at hk
    simpa using hk

end Sys2Proof.Machine
end

