-- ==== Sys2Proof/Tests/Slice0.lean ====
section
/-! SUPPORT. The model's own tests: the profile check on ill-formed terms, words written out from the spec's
encodings, one-step tests whose expected values are the spec's own examples and vectors (95_test_vectors.md),
and a named witness for the hypotheses of every statement that has some. -/

open Sys2Proof
open Sys2Proof.Machine
open Sys2Proof.Claims

namespace Sys2Proof.Tests

/-! ## Small states -/

/-- The machine after reset with the engine Running, as after the load of an empty ROM (R232). -/
def go : State := { State.reset with run := .running }

/-- The same machine under another configuration. -/
def goWith (cfg : Config) : State := { go with cfg := cfg }

/-- Registers set before a test. -/
def regs (l : List (Nibble × Byte)) (s : State) : State := l.foldl (fun s p => s.setReg p.1 p.2) s

/-- Bytes of memory set before a test. -/
def poke (a : Nat) (bs : List Byte) (s : State) : State := s.setMem (s.mem.writeSpan a bs)

/-- The state an outcome answers; `s` when it answers none. -/
def next (s : State) (r : Result) : State :=
  match r with
  | .next t => t
  | .fault _ => s
  | .refused _ => s

/-- The state after an instruction. -/
def after (i : Instr) (s : State) : State := next s (exec i s)

/-- The state after a step. -/
def stepped (s : State) : State := next s (step s)

/-- A Running machine with one word at 0x200. -/
def holding (hi lo : Byte) : State := poke 0x200 [hi, lo] go

/-- A key held down. -/
def press (k : Nibble) (s : State) : State := { s with key := s.key.set k.toNat true k.isLt }

/-- One pixel on before a test. -/
def dot (x y : Nat) (s : State) : State := { s with disp := s.disp.setPixel x y true }

/-- A configuration with every option away from its default, and a stack of one entry. -/
def otherCfg : Config :=
  { Config.default with
    stackDepth := 1, drawVfOrder := .operandsFirst, shiftSource := .vy, loadStoreI := .increment,
    jumpOffset := .vx, logicVfReset := true }

/-- The minimal profile. -/
def minimalCfg : Config := { Config.default with profile := .minimal }

/-! ## WellFormed: the one check, the profile filter (R3, R75) -/

theorem test_wellFormed_refuses_classic_in_minimal :
    wellFormed .minimal .ret = false ∧ wellFormed .minimal (.addReg 1 2) = false ∧
      wellFormed .minimal (.load 0) = false := by decide

theorem test_wellFormed_accepts :
    wellFormed .minimal (.draw 0 1 5) = true ∧ wellFormed .standard .ret = true := by decide

/-! ## Decoding: every constructor's word, written out bit by bit from its encoding (R66, R70-R74) -/

theorem test_decode_0 :
    decode .standard 0b0000_0000_1110_0000 = .ok .clear ∧ decode .standard 0b0000_0000_1110_1110 = .ok .ret :=
  ⟨rfl, rfl⟩

theorem test_decode_1_2 :
    decode .standard 0b0001_1010_1011_1100 = .ok (.jump 0xABC) ∧
      decode .standard 0b0010_1010_1011_1100 = .ok (.call 0xABC) := ⟨rfl, rfl⟩

theorem test_decode_3_4 :
    decode .standard 0b0011_1010_0001_0010 = .ok (.skipEqImm 0xA 0x12) ∧
      decode .standard 0b0100_1010_0001_0010 = .ok (.skipNeImm 0xA 0x12) := ⟨rfl, rfl⟩

theorem test_decode_5_9 :
    decode .standard 0b0101_1010_1011_0000 = .ok (.skipEqReg 0xA 0xB) ∧
      decode .standard 0b1001_1010_1011_0000 = .ok (.skipNeReg 0xA 0xB) := ⟨rfl, rfl⟩

theorem test_decode_6_7 :
    decode .standard 0b0110_1010_0100_0010 = .ok (.setImm 0xA 0x42) ∧
      decode .standard 0b0111_0011_0000_1010 = .ok (.addImm 0x3 0x0A) := ⟨rfl, rfl⟩

theorem test_decode_8_logic :
    decode .standard 0b1000_1010_1011_0000 = .ok (.setReg 0xA 0xB) ∧
      decode .standard 0b1000_1010_1011_0001 = .ok (.orReg 0xA 0xB) ∧
      decode .standard 0b1000_1010_1011_0010 = .ok (.andReg 0xA 0xB) ∧
      decode .standard 0b1000_1010_1011_0011 = .ok (.xorReg 0xA 0xB) := ⟨rfl, rfl, rfl, rfl⟩

theorem test_decode_8_arithmetic :
    decode .standard 0b1000_1010_1011_0100 = .ok (.addReg 0xA 0xB) ∧
      decode .standard 0b1000_1010_1011_0101 = .ok (.subReg 0xA 0xB) ∧
      decode .standard 0b1000_1010_1011_0110 = .ok (.shr 0xA 0xB) ∧
      decode .standard 0b1000_1010_1011_0111 = .ok (.subn 0xA 0xB) ∧
      decode .standard 0b1000_1010_1011_1110 = .ok (.shl 0xA 0xB) := ⟨rfl, rfl, rfl, rfl, rfl⟩

theorem test_decode_A_B_C :
    decode .standard 0b1010_0001_0010_0011 = .ok (.setI 0x123) ∧
      decode .standard 0b1011_0011_0000_0000 = .ok (.jumpV0 0x300) ∧
      decode .standard 0b1100_0000_0000_1111 = .ok (.rand 0x0 0x0F) := ⟨rfl, rfl, rfl⟩

theorem test_decode_D : decode .minimal 0b1101_0001_0010_0011 = .ok (.draw 0x1 0x2 0x3) := rfl

theorem test_decode_E :
    decode .standard 0b1110_0001_1001_1110 = .ok (.skipKey 0x1) ∧
      decode .standard 0b1110_0001_1010_0001 = .ok (.skipNkey 0x1) := ⟨rfl, rfl⟩

theorem test_decode_F_timers :
    decode .standard 0b1111_0101_0000_0111 = .ok (.getDt 0x5) ∧
      decode .standard 0b1111_0101_0000_1010 = .ok (.waitKey 0x5) ∧
      decode .standard 0b1111_0101_0001_0101 = .ok (.setDt 0x5) ∧
      decode .standard 0b1111_0101_0001_1000 = .ok (.setSt 0x5) := ⟨rfl, rfl, rfl, rfl⟩

theorem test_decode_F_index :
    decode .standard 0b1111_0101_0001_1110 = .ok (.addI 0x5) ∧
      decode .standard 0b1111_0101_0010_1001 = .ok (.font 0x5) ∧
      decode .standard 0b1111_0101_0011_0011 = .ok (.bcd 0x5) ∧
      decode .standard 0b1111_0101_0101_0101 = .ok (.store 0x5) ∧
      decode .standard 0b1111_0101_0110_0101 = .ok (.load 0x5) := ⟨rfl, rfl, rfl, rfl, rfl⟩

/-- Vectors E3, E4, E6, E7, E10 and E12: near misses are unknown, by name. -/
theorem test_decode_unknown :
    decode .minimal 0x00EE = .error (.unknownOpcode 0x00EE) ∧ decode .standard 0x0123 = .error (.unknownOpcode 0x0123) ∧
      decode .standard 0x5121 = .error (.unknownOpcode 0x5121) ∧ decode .standard 0x800F = .error (.unknownOpcode 0x800F) ∧
      decode .standard 0xE09F = .error (.unknownOpcode 0xE09F) ∧ decode .standard 0xF075 = .error (.unknownOpcode 0xF075) :=
  ⟨rfl, rfl, rfl, rfl, rfl, rfl⟩

/-- Vector S1, and the byte order of R49: the high byte lies first. -/
theorem test_decode_bytes : decodeBytes .standard [0xD1, 0x23, 0x00] = .ok (.draw 1 2 3, [0x00]) := rfl

theorem test_decode_truncated : decodeBytes .standard [0xD1] = .error .truncated := rfl

theorem test_table_word : decodeTableWord 16 0x8ABE = some (.shl 0xA 0xB) ∧ decodeTableWord 16 0x0000 = none := by
  decide

/-! ## One step -/

/-- Vectors S4, F6: the word placed after reset is the one that runs, and PC has advanced by 2. -/
theorem test_step_runs_placed_word :
    let t := stepped (State.reset.withFetchWord 16 0x6A42)
    (t.reg 0xA, t.pc, t.run) = (0x42, 0x202, .running) := by decide

/-- Vector F1: a fetch at an odd address. -/
theorem test_step_odd_fetch :
    let t := stepped (poke 0x201 [0x60, 0x11] { go with pc := 0x201 })
    (t.reg 0, t.pc) = (0x11, 0x203) := by decide

/-- Vector F2: the last fetchable address. -/
theorem test_step_last_fetch :
    let t := stepped (poke 0xFFE [0x60, 0x11] { go with pc := 0xFFE })
    (t.reg 0, t.pc, t.halt) = (0x11, 0x1000, none) := by decide

/-- Vector F4: no word can be fetched at 0xFFF. -/
theorem test_step_fetch_fault :
    let t := stepped { go with pc := 0xFFF }
    (t.run, t.halt, t.pc) = (.halted, some ⟨.outOfBoundsAccess, 0xFFF, none⟩, 0xFFF) := by decide

/-- Vector S10: an unknown word in the minimal profile. -/
theorem test_step_unknown_opcode :
    let t := stepped (poke 0x200 [0x23, 0x00] (goWith minimalCfg))
    (t.halt, t.pc) = (some ⟨.unknownOpcode, 0x200, some 0x2300⟩, 0x200) := by decide

/-- Vectors F9, F10: no step in Ready and in Halted. -/
theorem test_step_ready_halted :
    step State.reset = .fault .engineReady ∧ step { go with run := .halted } = .fault .engineHalted := ⟨rfl, rfl⟩

/-! ## The documented operations (vectors D1-D10, W1-W16) -/

theorem test_clear :
    let t := after .clear (regs [(0xF, 1)] (dot 5 6 go))
    (t.disp.pixel 5 6, t.dirty, t.reg 0xF, t.pc) = (false, true, 1, 0x202) := by decide

theorem test_jump : (after (.jump 0x001) go).pc = 0x001 ∧ (after (.jump 0xFFF) go).pc = 0xFFF := by decide

theorem test_setImm : (after (.setImm 0xF 0x00) (regs [(0xF, 7)] go)).reg 0xF = 0 := by decide

theorem test_addImm_wraps :
    let t := after (.addImm 3 0x0A) (regs [(3, 0xFA), (0xF, 0x77)] go)
    (t.reg 3, t.reg 0xF) = (0x04, 0x77) := by decide

theorem test_addImm_vf : (after (.addImm 0xF 0x01) (regs [(0xF, 0xFF)] go)).reg 0xF = 0x00 := by decide

theorem test_setI : (after (.setI 0xFFF) { go with i := 0x1234 }).i = 0x0FFF := by decide

/-- Vector S8 over S7's sprite: the right edge clips and never wraps. -/
theorem test_draw_right_clip :
    let t := after (.draw 0 1 1) (poke 0x300 [0xFF] (regs [(0, 60), (1, 1)] { go with i := 0x300 }))
    (t.disp.pixel 59 1, t.disp.pixel 60 1, t.disp.pixel 63 1, t.disp.pixel 0 1, t.reg 0xF) =
      (false, true, true, false, 0) := by decide

/-- Vector W11 with W12: VF as a coordinate, in both orders. -/
theorem test_draw_vf_operand :
    (after (.draw 0 0xF 5) (regs [(0xF, 7)] { go with i := 0x050 })).disp.pixel 0 0 = true ∧
      (after (.draw 0 0xF 5) (regs [(0xF, 7)] { goWith otherCfg with i := 0x050 })).disp.pixel 0 0 = false ∧
      (after (.draw 0 0xF 5) (regs [(0xF, 7)] { goWith otherCfg with i := 0x050 })).disp.pixel 0 7 = true := by decide

/-- Vector W13: a collision. -/
theorem test_draw_collision :
    let t := after (.draw 0 1 1) (poke 0x300 [0x10] (dot 3 0 { go with i := 0x300 }))
    (t.disp.pixel 3 0, t.reg 0xF, t.dirty) = (false, 1, true) := by decide

/-- Vector W8: all N addresses are checked before any effect. -/
theorem test_draw_bounds :
    let t := after (.draw 0 0 5) (regs [(0xF, 3)] { go with i := 0xFFC })
    (t.halt, t.reg 0xF, t.pc, t.dirty) = (some ⟨.outOfBoundsAccess, 0x200, some 0xD005⟩, 3, 0x200, false) := by decide

/-! ## Control flow (vectors K1-K16) -/

theorem test_call :
    let t := after (.call 0xFFF) { go with pc := 0xFFE }
    (t.stack, t.pc) = ([0x1000], 0xFFF) := by decide

theorem test_call_overflow :
    let t := after (.call 0x400) { go with stack := List.replicate 16 0x202, pc := 0x210 }
    (t.halt, t.stack.length, t.pc) = (some ⟨.stackOverflow, 0x210, some 0x2400⟩, 16, 0x210) := by decide

theorem test_ret :
    let t := after .ret { go with stack := [0x300, 0x202], pc := 0x400 }
    (t.stack, t.pc) = ([0x300], 0x202) := by decide

theorem test_ret_underflow : (after .ret go).halt = some ⟨.stackUnderflow, 0x200, some 0x00EE⟩ := by decide

theorem test_skipEqImm :
    (after (.skipEqImm 1 0x12) (regs [(1, 0x12)] go)).pc = 0x204 ∧
      (after (.skipEqImm 1 0x12) (regs [(1, 0x13)] go)).pc = 0x202 := by decide

theorem test_skipNeImm :
    (after (.skipNeImm 1 0x12) (regs [(1, 0x12)] go)).pc = 0x202 ∧
      (after (.skipNeImm 1 0x12) (regs [(1, 0x13)] go)).pc = 0x204 := by decide

theorem test_skipEqReg :
    (after (.skipEqReg 1 2) (regs [(1, 9), (2, 9)] go)).pc = 0x204 ∧
      (after (.skipEqReg 1 2) (regs [(1, 9), (2, 8)] go)).pc = 0x202 := by decide

theorem test_skipNeReg :
    (after (.skipNeReg 1 1) go).pc = 0x202 ∧ (after (.skipNeReg 1 2) (regs [(1, 1), (2, 2)] go)).pc = 0x204 := by
  decide

/-- R137: the sum passes 0xFFF; under `JUMP_OFFSET = vx` the register is NNN[11:8] (vector E17). -/
theorem test_jumpV0 :
    (after (.jumpV0 0xFFF) (regs [(0, 0xFF)] go)).pc = 0x10FE ∧
      (after (.jumpV0 0xABC) (regs [(0xA, 1), (0, 9)] (goWith otherCfg))).pc = 0xABD := by decide

/-! ## Arithmetic and logic (the examples and corner cases of R152-R160) -/

theorem test_setReg : (after (.setReg 0 1) (regs [(1, 0x3C)] go)).reg 0 = 0x3C := by decide

theorem test_orReg :
    let t := after (.orReg 0 1) (regs [(0, 0x0F), (1, 0xF0), (0xF, 5)] go)
    (t.reg 0, t.reg 0xF) = (0xFF, 5) := by decide

theorem test_andReg : (after (.andReg 0 1) (regs [(0, 0x3C), (1, 0x0F)] go)).reg 0 = 0x0C := by decide

/-- The example of R155, and the VF reset of `LOGIC_VF_RESET`. -/
theorem test_xorReg :
    let t := after (.xorReg 0 1) (regs [(0, 0xFF), (1, 0x0F), (0xF, 5)] (goWith otherCfg))
    (t.reg 0, t.reg 0xF) = (0xF0, 0) := by decide

theorem test_addReg :
    let t := after (.addReg 0 1) (regs [(0, 0xF0), (1, 0x20)] go)
    (t.reg 0, t.reg 0xF) = (0x10, 1) := by decide

/-- X = 0xF: VF holds the carry, not the sum (R151, R156). -/
theorem test_addReg_vf : (after (.addReg 0xF 1) (regs [(0xF, 0x7F), (1, 0x80)] go)).reg 0xF = 0 := by decide

theorem test_subReg :
    let t := after (.subReg 1 2) (regs [(1, 5), (2, 1)] go)
    (t.reg 1, t.reg 0xF) = (4, 1) := by decide

theorem test_subReg_borrow :
    let t := after (.subReg 1 2) (regs [(1, 0), (2, 1)] go)
    (t.reg 1, t.reg 0xF) = (0xFF, 0) := by decide

theorem test_shr :
    let t := after (.shr 0 0) (regs [(0, 0x05)] go)
    (t.reg 0, t.reg 0xF) = (0x02, 1) := by decide

/-- `SHIFT_SOURCE = vy` shifts V[Y] (R158). -/
theorem test_shr_vy :
    let t := after (.shr 0 1) (regs [(0, 0xFF), (1, 0x04)] (goWith otherCfg))
    (t.reg 0, t.reg 0xF) = (0x02, 0) := by decide

theorem test_subn :
    let t := after (.subn 0 1) (regs [(0, 3), (1, 10)] go)
    (t.reg 0, t.reg 0xF) = (7, 1) := by decide

theorem test_subn_borrow :
    let t := after (.subn 0 1) (regs [(0, 1), (1, 0)] go)
    (t.reg 0, t.reg 0xF) = (0xFF, 0) := by decide

theorem test_shl :
    let t := after (.shl 0 0) (regs [(0, 0x81)] go)
    (t.reg 0, t.reg 0xF) = (0x02, 1) := by decide

/-! ## Index and memory (the examples and corner cases of R171-R175) -/

theorem test_addI :
    (after (.addI 2) (regs [(2, 1)] { go with i := 0x0FFF })).i = 0x1000 ∧
      (after (.addI 2) (regs [(2, 1)] { go with i := 0xFFFF })).i = 0x0000 := by decide

theorem test_font : (after (.font 0) (regs [(0, 0xF)] go)).i = 0x09B := by decide

theorem test_font_bounds :
    (after (.font 0) (regs [(0, 0x10)] go)).halt = some ⟨.outOfBoundsAccess, 0x200, some 0xF029⟩ := by decide

theorem test_bcd :
    (after (.bcd 0) (regs [(0, 0xFE)] { go with i := 0x300 })).mem = [(0x300, 2), (0x301, 5), (0x302, 4)] := by decide

theorem test_bcd_bounds :
    (after (.bcd 0) { go with i := 0xFFE }).run = .halted ∧ (after (.bcd 0) { go with i := 0xFFD }).run = .running := by
  decide

theorem test_store :
    let t := after (.store 2) (regs [(0, 1), (1, 2), (2, 3)] { go with i := 0x400 })
    (t.mem, t.i) = ([(0x400, 1), (0x401, 2), (0x402, 3)], 0x400) := by decide

theorem test_store_increment :
    (after (.store 2) { goWith otherCfg with i := 0x400 }).i = 0x403 ∧
      (after (.store 0xF) { go with i := 0xFF1 }).halt = some ⟨.outOfBoundsAccess, 0x200, some 0xFF55⟩ := by decide

theorem test_load :
    let t := after (.load 2) (regs [(3, 9)] (poke 0x300 [2, 5, 4, 8] { go with i := 0x300 }))
    (t.reg 0, t.reg 1, t.reg 2, t.reg 3) = (2, 5, 4, 9) := by decide

/-! ## Random, keypad, timers (R186-R193) -/

/-- "NN = 0 always gives 0" (R186), whatever the draw. -/
theorem test_rand : (after (.rand 0 0) (regs [(0, 0xFE)] go)).reg 0 = 0 := BitVec.and_zero

theorem test_skipKey :
    (after (.skipKey 1) (press 5 (regs [(1, 5)] go))).pc = 0x204 ∧ (after (.skipKey 1) (regs [(1, 5)] go)).pc = 0x202 := by
  decide

theorem test_skipNkey :
    (after (.skipNkey 1) (regs [(1, 5)] go)).pc = 0x204 ∧
      (after (.skipNkey 1) (regs [(1, 0x10)] go)).halt = some ⟨.outOfBoundsAccess, 0x200, some 0xE1A1⟩ := by decide

theorem test_getDt : (after (.getDt 5) { go with dt := 0x3C }).reg 5 = 0x3C := by decide

theorem test_waitKey :
    let t := after (.waitKey 3) (press 0xA go)
    (t.reg 3, t.pc) = (0x0A, 0x202) := by decide

/-- The hold (R194). -/
theorem test_waitKey_holds : exec (.waitKey 3) go = .next go := rfl

theorem test_setDt : (after (.setDt 0) (regs [(0, 60)] go)).dt = 60 := by decide

theorem test_setSt :
    let t := after (.setSt 0) (regs [(0, 2)] go)
    (t.st, t.soundActive) = (2, true) := by decide

/-! ## The host (R98, R214-R217, R232, R233) -/

/-- R214: a timer at 0 stays there. -/
theorem test_tick :
    let t := stepped { go with dt := 1, st := 0, schedule := [.host .tick] }
    (t.dt, t.st, t.schedule) = (0, 0, []) := by decide

theorem test_loadRom :
    let t := stepped { State.reset with schedule := [.host (.loadRom [0x60, 0x11])] }
    (t.run, t.mem, t.pc) = (.running, [(0x200, 0x60), (0x201, 0x11)], 0x200) := by decide

theorem test_stop :
    (stepped { go with pc := 0x208, schedule := [.host .stop] }).halt = some ⟨.stopped, 0x208, none⟩ := by decide

/-! ## Fairness (R240, D38) -/

/-- An empty ROM is loaded into a constructed machine, and then there are only ticks. -/
def idleEvents (n : Nat) : Event := if n = 0 then .host (.loadRom []) else .host .tick

/-- The states of that run: the timers are at 0, so the ticks change nothing. -/
def idleStates (n : Nat) : State := if n = 0 then State.reset else go

theorem test_idle_is_execution : IsExecution idleEvents idleStates
  | 0 => rfl
  | _ + 1 => rfl

/-- The engine stays Running from the load on and does not hold, yet no cycle happens: unfair. -/
theorem test_idle_is_not_fair : ¬ FairCycles idleEvents idleStates := by
  intro h
  have hrun : ∀ n, 1 ≤ n → (idleStates n).run = .running ∧ ¬ (idleStates n).Holding := by
    intro n hn
    rw [idleStates, if_neg (by omega)]
    refine ⟨rfl, ?_⟩
    rintro ⟨-, ⟨w, x, hw, hd⟩, -⟩
    rw [show go.fetch = some 0x0000 by decide] at hw
    cases hw
    cases hd
  obtain ⟨m, -, hm⟩ := h 1 hrun 0
  unfold idleEvents at hm
  split at hm <;> cases hm

/-- A machine that holds while its only events are ticks owes no cycle. -/
theorem test_holding_is_fair : FairCycles (fun _ => .host .tick) fun _ => holding 0xF0 0x0A := by
  have hold : (holding 0xF0 0x0A).Holding := ⟨rfl, ⟨0xF00A, 0, by decide, rfl⟩, by decide⟩
  exact fun k h => absurd hold (h k (Nat.le_refl k)).2

/-! ## Witnesses: the hypotheses of the statements can be met -/

/-- With nothing scheduled a cycle is due. -/
theorem cycleDue_of_empty {s : State} (h : s.schedule = []) : s.CycleDue := fun a rest e => by rw [h] at e; cases e

theorem witness_DecodeInvertsEncode :
    wellFormed .minimal (.draw 0xF 0xF 0xF) = true ∧ wellFormed .standard (.load 0xF) = true := by decide

theorem witness_EncodeInvertsDecode :
    decode .minimal 0xDFFF = .ok (.draw 0xF 0xF 0xF) ∧ decode .standard 0x00EE = .ok .ret := ⟨rfl, rfl⟩

theorem witness_ProfilesAcceptExactlyTheirRows :
    (∀ i, decode .standard 0xFFFF ≠ .ok i) ∧ decode .minimal 0x00E0 = .ok .clear :=
  ⟨fun i h => (by cases h), rfl⟩

theorem witness_OpcodeRowsAreDisjoint :
    (OpcodeRow.mk "SHL_VX__VY" 0x800E 0xF00F false) ∈ opcodeTable ∧
      (OpcodeRow.mk "SHL_VX__VY" 0x800E 0xF00F false).covers 0x8FFE = true := by decide

theorem witness_FamilyZeroIsDecodedOnTheWholeWord :
    family 0x00E0 = 0 ∧ family 0x00EE = 0 ∧ family 0x0000 = 0 ∧ family 0x0FFF = 0 ∧
      (0x0FFF : Word) ≠ 0x00E0 ∧ (0x0FFF : Word) ≠ 0x00EE := by decide

theorem witness_UnassignedSubOpcodesAreUnknown :
    (family 0x5FF1 = 5 ∧ fieldN 0x5FF1 ≠ 0) ∧ (family 0x9001 = 9 ∧ fieldN 0x9001 ≠ 0) ∧
      (family 0x8008 = 8 ∧ (fieldN 0x8008).toNat ∈ [0x8, 0x9, 0xA, 0xB, 0xC, 0xD, 0xF]) ∧
      (family 0xE0A0 = 0xE ∧ (fieldNN 0xE0A0).toNat ∉ [0x9E, 0xA1]) ∧
      (family 0xF066 = 0xF ∧ (fieldNN 0xF066).toNat ∉ [0x07, 0x0A, 0x15, 0x18, 0x1E, 0x29, 0x33, 0x55, 0x65]) := by
  decide

theorem witness_StepRunsTheDecodedInstruction :
    (holding 0xD1 0x23).CycleDue ∧ (holding 0xD1 0x23).run = .running ∧ Fetches (holding 0xD1 0x23) (.draw 1 2 3) ∧
      (holding 0xD1 0x23).schedule = [] :=
  ⟨cycleDue_of_empty rfl, rfl, ⟨by decide, rfl⟩, rfl⟩

/-- Both clauses, at the addresses where they meet. -/
theorem witness_FetchIsBigEndianUpToFFE :
    ({ go with pc := 0xFFE } : State).pc.toNat ≤ 0xFFE ∧ 0xFFF ≤ ({ go with pc := 0xFFF } : State).pc.toNat ∧
      ({ go with pc := 0xFFF } : State).CycleDue ∧ ({ go with pc := 0xFFF } : State).run = .running :=
  ⟨by decide, by decide, cycleDue_of_empty rfl, rfl⟩

theorem witness_UnknownWordHaltsWithItsAddress :
    (holding 0xFF 0xFF).CycleDue ∧ (holding 0xFF 0xFF).run = .running ∧ (holding 0xFF 0xFF).fetch = some 0xFFFF ∧
      ∀ i, decode (holding 0xFF 0xFF).cfg.profile 0xFFFF ≠ .ok i :=
  ⟨cycleDue_of_empty rfl, rfl, by decide, fun i h => by cases h⟩

theorem witness_NoCycleUnlessRunning :
    (State.reset.CycleDue ∧ State.reset.run = .ready) ∧
      (({ go with run := .halted } : State).CycleDue ∧ ({ go with run := .halted } : State).run = .halted) :=
  ⟨⟨cycleDue_of_empty rfl, rfl⟩, cycleDue_of_empty rfl, rfl⟩

/-- A cycle that ends in an error (with a word, and without one), and one that completes. -/
theorem witness_ErrorsDiscardTheCycle :
    (∃ t, step (holding 0x00 0xEE) = .next t ∧ t.run = .halted) ∧
      (∃ t, step { go with pc := 0xFFF } = .next t ∧ t.run = .halted) ∧
      (∃ t, step (holding 0x60 0x11) = .next t ∧ t.run ≠ .halted) :=
  ⟨⟨_, rfl, rfl⟩, ⟨_, rfl, rfl⟩, ⟨_, rfl, by decide⟩⟩

/-- Each condition of R201 at its first value. -/
theorem witness_OutOfBoundsRaisedExactlyWhen :
    go.CycleDue ∧ go.run = .running ∧
      OutOfBounds { go with i := 0xFFF } (.draw 0 0 2) ∧ ¬ OutOfBounds { go with i := 0xFFF } (.draw 0 0 1) ∧
      OutOfBounds { go with i := 0xFFE } (.bcd 0) ∧ OutOfBounds { go with i := 0xFFF } (.store 1) ∧
      OutOfBounds { go with i := 0xFFF } (.load 1) ∧ OutOfBounds (regs [(0, 0x10)] go) (.font 0) ∧
      OutOfBounds (regs [(0, 0x10)] go) (.skipKey 0) ∧ OutOfBounds (regs [(0, 0x10)] go) (.skipNkey 0) := by
  refine ⟨cycleDue_of_empty rfl, rfl, ?_, ?_, ?_, ?_, ?_, ?_, ?_, ?_⟩ <;> unfold OutOfBounds <;> decide

theorem witness_StackErrorsRaisedExactlyWhen :
    (holding 0x00 0xEE).CycleDue ∧ (holding 0x00 0xEE).run = .running ∧ Fetches (holding 0x00 0xEE) .ret ∧
      (holding 0x00 0xEE).stack = [] ∧ Fetches (holding 0x24 0x00) (.call 0x400) ∧
      (List.replicate 16 (0x202 : Word)).length = (holding 0x24 0x00).cfg.stackDepth :=
  ⟨cycleDue_of_empty rfl, rfl, ⟨by decide, rfl⟩, rfl, ⟨by decide, rfl⟩, rfl⟩

theorem witness_PcAfterCompletion :
    go.run = .running ∧ (∃ t, exec (.jump 0xFFF) go = .next t ∧ t.run = .running) ∧
      (∃ t, exec (.call 0) go = .next t ∧ t.run = .running) ∧
      (∃ t, exec .ret { go with stack := [0x202] } = .next t ∧ t.run = .running) ∧
      (∃ t, exec (.jumpV0 0xFFF) go = .next t ∧ t.run = .running) ∧
      (∃ t, exec (.skipEqImm 0 0) go = .next t ∧ t.run = .running ∧ ¬ AssignsPc (.skipEqImm 0 0)) :=
  ⟨rfl, ⟨_, rfl, rfl⟩, ⟨_, rfl, rfl⟩, ⟨_, rfl, rfl⟩, ⟨_, rfl, rfl⟩, ⟨_, rfl, rfl, fun h => h⟩⟩

theorem witness_StepKeepsTheMachineSound :
    (holding 0x60 0x11).Inv ∧ ∃ t, step (holding 0x60 0x11) = .next t :=
  ⟨⟨by decide, Nat.zero_le _, by decide, ⟨by decide, fun _ h => by cases h⟩, fun _ => rfl⟩, _, rfl⟩

theorem witness_ConstructionGivesResetValues :
    (0x050 ≤ 0x09F ∧ 0x09F ≤ 0x09F) ∧ ((0x0A0 < 4096) ∧ 0x09F < 0x0A0) ∧ (0x04F < 4096 ∧ 0x04F < 0x050) := by decide

theorem witness_StepKeepsConfigurationAndKeypad :
    ∃ t, step { go with schedule := [.host (.setKey 5 true)] } = .next t ∧ t.key ≠ go.key := ⟨_, rfl, by decide⟩

/-- Each part is written by some instruction. -/
theorem witness_OnlyNamedInstructionsWriteEachPart :
    (∃ t, exec (.setI 1) go = .next t ∧ t.i ≠ go.i) ∧ (∃ t, exec (.call 0) go = .next t ∧ t.stack ≠ go.stack) ∧
      (∃ t, exec (.bcd 0) (regs [(0, 1)] { go with i := 0x300 }) = .next t ∧ t.mem ≠ go.mem) ∧
      (∃ t, exec .clear (dot 0 0 go) = .next t ∧ t.disp ≠ (dot 0 0 go).disp ∧ t.dirty ≠ (dot 0 0 go).dirty) ∧
      (∃ t, exec (.setDt 0) (regs [(0, 1)] go) = .next t ∧ t.dt ≠ go.dt) ∧
      (∃ t, exec (.setSt 0) (regs [(0, 1)] go) = .next t ∧ t.st ≠ go.st) ∧
      (∃ t, exec (.rand 0 0) go = .next t ∧ t.oracle ≠ go.oracle) :=
  ⟨⟨_, rfl, by decide⟩, ⟨_, rfl, by decide⟩, ⟨_, rfl, by decide⟩, ⟨_, rfl, by decide, by decide⟩, ⟨_, rfl, by decide⟩,
    ⟨_, rfl, by decide⟩, ⟨_, rfl, Nat.succ_ne_zero 0⟩⟩

theorem witness_OnlyListedInstructionsWriteVf :
    ∃ t, exec (.shl 0 0) (regs [(0, 0x81)] go) = .next t ∧ t.reg 0xF ≠ (regs [(0, 0x81)] go).reg 0xF :=
  ⟨_, rfl, by decide⟩

/-- Halted, with Present due on a dirty display. -/
theorem witness_HaltedIsTerminal :
    ∃ t, step { go with run := .halted, dirty := true, schedule := [.host .present] } = .next t ∧ t.dirty ≠ true :=
  ⟨_, rfl, by decide⟩

/-- Each transition of R86 that an event causes. -/
theorem witness_RunStateTransitions :
    State.reset.run = .ready ∧ ([] : List Byte).length ≤ 3584 ∧ 3584 < (List.replicate 3585 (0 : Byte)).length ∧
      go.run ≠ .halted ∧ (∃ t, step (holding 0x60 0x11) = .next t) ∧ go.CycleDue :=
  ⟨rfl, by decide, by rw [List.length_replicate]; decide, by decide, ⟨_, rfl⟩, cycleDue_of_empty rfl⟩

theorem witness_TickCountsDownBothTimers :
    ({ go with schedule := [.host .tick] } : State).schedule = .host .tick :: [] ∧
      ({ go with schedule := [.host .tick] } : State).run = .running := ⟨rfl, rfl⟩

theorem witness_PresentReturnsDisplayAndClearsDirty :
    ({ go with schedule := [.host .present] } : State).schedule = .host .present :: [] := rfl

theorem witness_SetKeyWritesOneKey :
    ({ go with schedule := [.host (.setKey 0xF true)] } : State).schedule = .host (.setKey 0xF true) :: [] ∧
      ({ go with schedule := [.host (.setKey 0xF true)] } : State).run ≠ .halted := ⟨rfl, by decide⟩

theorem witness_StopHaltsAndRecordsPc :
    ({ State.reset with schedule := [.host .stop] } : State).schedule = .host .stop :: [] ∧
      ({ State.reset with schedule := [.host .stop] } : State).run ≠ .halted := ⟨rfl, by decide⟩

/-- A ROM that fills memory, and one of a byte more (vector S9). -/
theorem witness_LoadRomCopiesAndStartsOrHalts :
    State.reset.mem.wf ∧ State.reset.run = .ready ∧
      ({ State.reset with schedule := [.host (.loadRom (List.replicate 3584 1))] } : State).schedule =
        .host (.loadRom (List.replicate 3584 1)) :: [] ∧
      (List.replicate 3584 (1 : Byte)).length ≤ 3584 ∧ 3584 < (List.replicate 3585 (1 : Byte)).length :=
  ⟨by decide, rfl, rfl, by rw [List.length_replicate], by rw [List.length_replicate]; decide⟩

theorem witness_ActionsNotEnabledHaveNoEffect :
    ({ State.reset with schedule := [.host .tick] } : State).schedule = .host .tick :: [] ∧
      ¬ Enabled { State.reset with schedule := [.host .tick] } .tick := ⟨rfl, fun h => by cases h⟩

/-- The sprite bounds on both sides, and a collision. -/
theorem witness_DrawXorsSpriteAndReportsCollision :
    SpriteInBounds { go with i := 0xFFB } 5 ∧ ¬ SpriteInBounds { go with i := 0xFFC } 5 ∧
      SpriteInBounds { go with i := 0xFFFF } 0 ∧
      (dot 0 0 go).disp.pixel 0 0 = true ∧ spriteOn { dot 0 0 go with i := 0x050 } 0 0 1 0 0 = true ∧
      drawValue (dot 0 0 go) 0 % 64 = 0 := by
  refine ⟨?_, ?_, ?_, by decide, by decide, by decide⟩ <;> unfold SpriteInBounds <;> decide

theorem witness_DrawChecksAllRowsFirst :
    (∃ r, r < (5 : Nibble).toNat ∧ 0xFFF < ({ go with i := 0xFFC } : State).i.toNat + r) ∧
      (∀ r, r < (5 : Nibble).toNat → ({ go with i := 0xFFB } : State).i.toNat + r ≤ 0xFFF) :=
  ⟨⟨4, by decide, by decide⟩, by decide⟩

/-- The sprite bounds, both ways to a fixed origin, and the origin kept with VF as a coordinate read first. -/
theorem witness_DrawingTwiceRestoresTheDisplay :
    SpriteInBounds { go with i := 0x050 } 5 ∧ ({ go with i := 0x050 } : State).cfg.drawVfOrder = .vfFirst ∧
      (0 : Nibble) ≠ 0xF ∧ (1 : Nibble) ≠ 0xF ∧
      (goWith otherCfg).cfg.drawVfOrder = .operandsFirst ∧
      SameOrigin (goWith otherCfg) (after (.draw 0xF 0xF 5) (goWith otherCfg)) 0xF 0xF := by
  refine ⟨?_, rfl, by decide, by decide, rfl, ?_⟩
  · unfold SpriteInBounds
    decide
  · unfold SameOrigin
    decide

theorem witness_ReturnPopsThePc :
    ({ go with stack := [0x300, 0x202] } : State).stack = [0x300] ++ [0x202] ∧ go.stack = [] := ⟨rfl, rfl⟩

theorem witness_CallPushesTheReturnAddress :
    ({ go with stack := List.replicate 15 0x202 } : State).stack.length ≠ go.cfg.stackDepth ∧
      ({ go with stack := List.replicate 16 0x202 } : State).stack.length = go.cfg.stackDepth := ⟨by decide, rfl⟩

/-- Taken and not taken, for the skips on registers. -/
theorem witness_skips :
    go.reg 0 = 0x00 ∧ go.reg 0 ≠ 0x01 ∧ go.reg 0 = go.reg 1 ∧ (regs [(0, 1)] go).reg 0 ≠ (regs [(0, 1)] go).reg 1 ∧
      family 0x5001 = 5 ∧ fieldN 0x5001 ≠ 0 := by decide

/-- Both values of each option that a statement distinguishes. -/
theorem witness_options :
    (go.cfg.jumpOffset = .v0 ∧ (goWith otherCfg).cfg.jumpOffset = .vx) ∧
      (go.cfg.logicVfReset = false ∧ (goWith otherCfg).cfg.logicVfReset = true) ∧
      (go.cfg.shiftSource = .vx ∧ (goWith otherCfg).cfg.shiftSource = .vy) ∧
      (go.cfg.loadStoreI = .unchanged ∧ (goWith otherCfg).cfg.loadStoreI = .increment) := by decide

theorem witness_LogicOperationsWriteResultThenResetVf :
    Instr.orReg 0 1 = .orReg 0 1 ∧ (go.reg 0 ||| go.reg 1) = 0 := by decide

theorem witness_SubtractionsWriteDifferenceAndNotBorrow :
    Instr.subReg 0 1 = .subReg 0 1 ∧ (go.reg 0).toNat = 0 ∧ (go.reg 1).toNat ≤ (go.reg 0).toNat ∧
      ((regs [(1, 1)] go).reg 0).toNat < ((regs [(1, 1)] go).reg 1).toNat := by decide

theorem witness_ShiftsWriteResultAndShiftedOutBit :
    go.cfg.shiftSource = .vx ∧ ((regs [(0, 0x81)] go).reg 0).toNat = 0x81 := by decide

theorem witness_FontAddressesTheGlyph :
    ((regs [(0, 0xF)] go).reg 0).toNat ≤ 0xF ∧ 0xF < ((regs [(0, 0x10)] go).reg 0).toNat := by decide

theorem witness_BcdStoresThreeDigits :
    (poke 0x300 [1] go).mem.wf ∧ ({ go with i := 0xFFD } : State).i.toNat + 2 ≤ 0xFFF ∧
      0xFFF < ({ go with i := 0xFFE } : State).i.toNat + 2 := by decide

theorem witness_StoreWritesRegistersToMemory :
    (poke 0x300 [1] go).mem.wf ∧ ({ go with i := 0xFF0 } : State).i.toNat + (0xF : Nibble).toNat ≤ 0xFFF ∧
      0xFFF < ({ go with i := 0xFF1 } : State).i.toNat + (0xF : Nibble).toNat := by decide

theorem witness_LoadReadsRegistersFromMemory :
    ({ go with i := 0xFFF } : State).i.toNat + (0 : Nibble).toNat ≤ 0xFFF ∧
      0xFFF < ({ go with i := 0xFFF } : State).i.toNat + (1 : Nibble).toNat := by decide

theorem witness_KeySkipsReadTheKeypad :
    ((regs [(0, 0xF)] go).reg 0).toNat = (15 : Fin 16).val ∧ 0xF < ((regs [(0, 0x10)] go).reg 0).toNat := by decide

theorem witness_WaitKeyStoresAKeyThatIsDown : ∃ k : Fin 16, (press 0xA go).key[k] = true := ⟨10, by decide⟩

theorem witness_WaitKeyHoldsUntilAKeyIsDown : ∀ k : Fin 16, go.key[k] = false := by decide

end Sys2Proof.Tests
end

section
/-! PROOFS, family `10_state`: what one step can change, said once, and what every step keeps. -/

open Sys2Proof.Claims

namespace Sys2Proof.Machine

/-! ### What an instruction can do -/

/-- Every state that instruction `i` can answer from `s`, by the shape of its effect. Where several instructions
share a shape, the constructor asks for what R22 and R26 say of the part it writes; an error asks for its
condition in R201, R203 or R204. -/
inductive Effect (s : State) : Instr → State → Prop
  | outOfBounds {i : Instr} (hi : OutOfBounds s i) :
      Effect s i (s.haltWith .outOfBoundsAccess s.pc (some (encode i)))
  | overflow (nnn : Addr) (hfull : s.stack.length = s.cfg.stackDepth) :
      Effect s (.call nnn) (s.haltWith .stackOverflow s.pc (some (encode (.call nnn))))
  | underflow (hempty : s.stack = []) : Effect s .ret (s.haltWith .stackUnderflow s.pc (some (encode .ret)))
  | hold (x : Nibble) : Effect s (.waitKey x) s
  | skip {i : Instr} (hi : IsSkip i) (c : Bool) : Effect s i (s.advance.skipIf c)
  | jump (nnn : Addr) : Effect s (.jump nnn) (s.advance.jumpTo (zeroExtend16 nnn))
  | jumpV0 (nnn : Addr) :
      Effect s (.jumpV0 nnn) (s.advance.jumpTo (zeroExtend16 nnn + byteToWord (s.jumpOffset nnn)))
  | call (nnn : Addr) (hroom : s.stack.length ≠ s.cfg.stackDepth) :
      Effect s (.call nnn) { s with pc := zeroExtend16 nnn, stack := s.stack ++ [s.pc + 2#16] }
  | ret {a : Word} (hlast : s.stack.getLast? = some a) :
      Effect s .ret { s with pc := a, stack := s.stack.dropLast }
  | register {i : Instr} {x : Nibble} (hvf : x = 0xF#4 → WritesVf s.cfg i) (b : Byte) :
      Effect s i (s.advance.setReg x b)
  | logic {i : Instr} {x : Nibble} (hvf : s.cfg.logicVfReset = true ∨ x = 0xF#4 → WritesVf s.cfg i) (r : Byte) :
      Effect s i (s.advance.setLogic x r)
  | resultFlag {i : Instr} (hvf : WritesVf s.cfg i) (x : Nibble) (r f : Byte) :
      Effect s i (s.advance.setResultFlag x r f)
  | rand (x : Nibble) (nn b : Byte) : Effect s (.rand x nn) (s.advance.setReg x b).takeAnswer
  | waitKey (x : Nibble) (b : Byte) : Effect s (.waitKey x) (s.advance.setReg x b).takeAnswer
  | index {i : Instr} (hi : WritesIndex s.cfg i) (a : Word) : Effect s i (s.advance.setIndex a)
  | setDt (x : Nibble) (b : Byte) : Effect s (.setDt x) (s.advance.setDelay b)
  | setSt (x : Nibble) (b : Byte) : Effect s (.setSt x) (s.advance.setSound b)
  | clear : Effect s .clear (s.advance.setDisplay Display.blank)
  | draw (x y n : Nibble) (f : Byte) (d : Display) :
      Effect s (.draw x y n) ((s.advance.setReg flagReg f).setDisplay d)
  | bcd (x : Nibble) (hspan : s.spanInBounds 3 = true) :
      Effect s (.bcd x) (s.advance.setMem (s.mem.writeSpan s.base (decimalDigits (s.reg x))))
  | store (x : Nibble) (hspan : s.spanInBounds (x.toNat + 1) = true) :
      Effect s (.store x)
        ((s.advance.setMem (s.mem.writeSpan s.base (s.regsUpTo x))).setIndex (s.indexAfterSpan x))
  | load (x : Nibble) : Effect s (.load x) ((s.advance.loadRegs x).setIndex (s.indexAfterSpan x))

theorem execRet_effect (s : State) : ∃ t, execRet s = .next t ∧ Effect s .ret t := by
  rcases execRet_cases s with ⟨hempty, h⟩ | ⟨a, hlast, h⟩
  · exact ⟨_, h, .underflow hempty⟩
  · exact ⟨_, h, .ret hlast⟩

theorem execCall_effect (nnn : Addr) (s : State) : ∃ t, execCall nnn s = .next t ∧ Effect s (.call nnn) t := by
  rcases execCall_cases nnn s with ⟨hfull, h⟩ | ⟨hroom, h⟩
  · exact ⟨_, h, .overflow nnn hfull⟩
  · exact ⟨_, h, .call nnn hroom⟩

theorem execWaitKey_effect (x : Nibble) (s : State) :
    ∃ t, execWaitKey x s = .next t ∧ Effect s (.waitKey x) t := by
  rcases execWaitKey_cases x s with ⟨_, h⟩ | ⟨k, _, h⟩
  · exact ⟨_, h, .hold x⟩
  · exact ⟨_, h, .waitKey ..⟩

theorem execSkipKey_effect (x : Nibble) (s : State) :
    ∃ t, execSkipKey x s = .next t ∧ Effect s (.skipKey x) t := by
  unfold execSkipKey
  split
  · exact ⟨_, rfl, .skip (by trivial) _⟩
  · exact ⟨_, rfl, .outOfBounds (hexIndex_eq_none.mp ‹_›)⟩

theorem execSkipNkey_effect (x : Nibble) (s : State) :
    ∃ t, execSkipNkey x s = .next t ∧ Effect s (.skipNkey x) t := by
  unfold execSkipNkey
  split
  · exact ⟨_, rfl, .skip (by trivial) _⟩
  · exact ⟨_, rfl, .outOfBounds (hexIndex_eq_none.mp ‹_›)⟩

theorem execFont_effect (x : Nibble) (s : State) : ∃ t, execFont x s = .next t ∧ Effect s (.font x) t := by
  unfold execFont
  split
  · exact ⟨_, rfl, .index (by trivial) _⟩
  · exact ⟨_, rfl, .outOfBounds (hexIndex_eq_none.mp ‹_›)⟩

/-- A meaning that first checks its span of addresses takes its effect, or raises OutOfBoundsAccess where the span
leaves memory (R47, R201). -/
theorem effect_of_span {s u : State} {i : Instr} {n : Nat} (hin : s.spanInBounds n = true → Effect s i u)
    (hout : n ≠ 0 → memSize < s.i.toNat + n → OutOfBounds s i) :
    ∃ t, (if s.spanInBounds n then .next u else s.raise .outOfBoundsAccess (encode i) : Result) = .next t ∧
      Effect s i t := by
  split
  · exact ⟨_, rfl, hin ‹_›⟩
  · rename_i h
    rw [s.spanInBounds_iff, not_or, not_le] at h
    exact ⟨_, rfl, .outOfBounds (hout h.1 h.2)⟩

theorem execDraw_effect (x y n : Nibble) (s : State) :
    ∃ t, execDraw x y n s = .next t ∧ Effect s (.draw x y n) t :=
  effect_of_span (fun _ => .draw x y n _ _) fun hn h => by
    simp only [OutOfBounds, memSize] at h ⊢
    omega

theorem execBcd_effect (x : Nibble) (s : State) : ∃ t, execBcd x s = .next t ∧ Effect s (.bcd x) t :=
  effect_of_span (.bcd x) fun _ h => by
    simp only [OutOfBounds, memSize] at h ⊢
    omega

theorem execStore_effect (x : Nibble) (s : State) : ∃ t, execStore x s = .next t ∧ Effect s (.store x) t :=
  effect_of_span (.store x) fun _ h => by
    simp only [OutOfBounds, memSize] at h ⊢
    omega

theorem execLoad_effect (x : Nibble) (s : State) : ∃ t, execLoad x s = .next t ∧ Effect s (.load x) t :=
  effect_of_span (fun _ => .load x) fun _ h => by
    simp only [OutOfBounds, memSize] at h ⊢
    omega

/-- Every instruction answers a next state, and that state is one of its effects (R94, R100). -/
theorem exec_effect (i : Instr) (s : State) : ∃ t, exec i s = .next t ∧ Effect s i t :=
  match i with
  | .clear => ⟨_, rfl, .clear⟩
  | .ret => execRet_effect s
  | .jump nnn => ⟨_, rfl, .jump nnn⟩
  | .call nnn => execCall_effect nnn s
  | .skipEqImm _ _ => ⟨_, rfl, .skip (by trivial) _⟩
  | .skipNeImm _ _ => ⟨_, rfl, .skip (by trivial) _⟩
  | .skipEqReg _ _ => ⟨_, rfl, .skip (by trivial) _⟩
  | .skipNeReg _ _ => ⟨_, rfl, .skip (by trivial) _⟩
  | .setImm _ _ => ⟨_, rfl, .register id _⟩
  | .addImm _ _ => ⟨_, rfl, .register id _⟩
  | .setReg _ _ => ⟨_, rfl, .register id _⟩
  | .getDt _ => ⟨_, rfl, .register id _⟩
  | .orReg _ _ => ⟨_, rfl, .logic id _⟩
  | .andReg _ _ => ⟨_, rfl, .logic id _⟩
  | .xorReg _ _ => ⟨_, rfl, .logic id _⟩
  | .addReg _ _ => ⟨_, rfl, .resultFlag (by trivial) _ _ _⟩
  | .subReg _ _ => ⟨_, rfl, .resultFlag (by trivial) _ _ _⟩
  | .shr _ _ => ⟨_, rfl, .resultFlag (by trivial) _ _ _⟩
  | .subn _ _ => ⟨_, rfl, .resultFlag (by trivial) _ _ _⟩
  | .shl _ _ => ⟨_, rfl, .resultFlag (by trivial) _ _ _⟩
  | .setI _ => ⟨_, rfl, .index (by trivial) _⟩
  | .addI _ => ⟨_, rfl, .index (by trivial) _⟩
  | .font x => execFont_effect x s
  | .jumpV0 nnn => ⟨_, rfl, .jumpV0 nnn⟩
  | .rand x nn => ⟨_, rfl, .rand x nn _⟩
  | .draw x y n => execDraw_effect x y n s
  | .skipKey x => execSkipKey_effect x s
  | .skipNkey x => execSkipNkey_effect x s
  | .waitKey x => execWaitKey_effect x s
  | .setDt x => ⟨_, rfl, .setDt x _⟩
  | .setSt x => ⟨_, rfl, .setSt x _⟩
  | .bcd x => execBcd_effect x s
  | .store x => execStore_effect x s
  | .load x => execLoad_effect x s

theorem effect_of_exec {i : Instr} {s t : State} (h : exec i s = .next t) : Effect s i t := by
  obtain ⟨u, hu, he⟩ := exec_effect i s
  obtain rfl : u = t := Host.Outcome.next.inj (hu.symm.trans h)
  exact he

/-! ### Which instruction writes each part -/

section Writers

variable {s t : State} {i : Instr}

/-- I after STORE and LOAD moves only under `LOADSTORE_I = increment` (R174, R175). -/
theorem State.increment_of_indexAfterSpan_ne {x : Nibble} (h : s.indexAfterSpan x ≠ s.i) :
    s.cfg.loadStoreI = .increment := by
  unfold State.indexAfterSpan at h
  split at h
  · exact absurd rfl h
  · assumption

theorem Effect.writesIndex (h : Effect s i t) (hne : t.i ≠ s.i) : WritesIndex s.cfg i := by
  cases h with
  | index hi => exact hi
  | store x => exact State.increment_of_indexAfterSpan_ne hne
  | load x => exact State.increment_of_indexAfterSpan_ne hne
  | _ => exact absurd (by simp) hne

theorem Effect.writesStack (h : Effect s i t) (hne : t.stack ≠ s.stack) : WritesStack i := by
  cases h with
  | call => trivial
  | ret => trivial
  | _ => exact absurd (by simp) hne

theorem Effect.writesMemory (h : Effect s i t) (hne : t.mem ≠ s.mem) : WritesMemory i := by
  cases h with
  | bcd => trivial
  | store => trivial
  | _ => exact absurd (by simp) hne

theorem Effect.writesDisplay (h : Effect s i t) (hne : t.disp ≠ s.disp) : WritesDisplay i := by
  cases h with
  | clear => trivial
  | draw => trivial
  | _ => exact absurd (by simp) hne

theorem Effect.writesDisplay_of_dirty (h : Effect s i t) (hne : t.dirty ≠ s.dirty) : WritesDisplay i := by
  cases h with
  | clear => trivial
  | draw => trivial
  | _ => exact absurd (by simp) hne

theorem Effect.eq_setDt (h : Effect s i t) (hne : t.dt ≠ s.dt) : ∃ x, i = .setDt x := by
  cases h with
  | setDt x => exact ⟨x, rfl⟩
  | _ => exact absurd (by simp) hne

theorem Effect.eq_setSt (h : Effect s i t) (hne : t.st ≠ s.st) : ∃ x, i = .setSt x := by
  cases h with
  | setSt x => exact ⟨x, rfl⟩
  | _ => exact absurd (by simp) hne

theorem Effect.takesAnswer (h : Effect s i t) (hne : t.oracle ≠ s.oracle) :
    (∃ x nn, i = .rand x nn) ∨ ∃ x, i = .waitKey x := by
  cases h with
  | rand x nn => exact .inl ⟨x, nn, rfl⟩
  | waitKey x => exact .inr ⟨x, rfl⟩
  | _ => exact absurd (by simp) hne

/-- A register write that changes VF has VF as its destination. -/
theorem State.eq_flagReg_of_setReg_ne {x : Nibble} {b : Byte} (h : (s.setReg x b).reg 0xF#4 ≠ s.reg 0xF#4) :
    x = 0xF#4 := by
  by_contra hx
  exact h (State.setReg_reg_ne s b (Ne.symm hx))

theorem State.vf_of_setLogic_ne {x : Nibble} {r : Byte} (h : (s.setLogic x r).reg 0xF#4 ≠ s.reg 0xF#4) :
    s.cfg.logicVfReset = true ∨ x = 0xF#4 := by
  by_contra hx
  obtain ⟨hreset, hx⟩ := not_or.mp hx
  exact h (by rw [State.reg_setLogic, if_neg (fun hc => hreset hc.1), if_neg (Ne.symm hx)])

/-- LOAD V0 to VX reaches VF only when X is F. -/
theorem State.eq_flagReg_of_loadRegs_ne {x : Nibble} (h : (s.loadRegs x).reg 0xF#4 ≠ s.reg 0xF#4) :
    x = 0xF#4 := by
  have hle : (0xF#4).toNat ≤ x.toNat := by
    by_contra hlt
    exact h (by rw [State.reg_loadRegs, if_neg hlt])
  exact BitVec.eq_of_toNat_eq (le_antisymm (Nat.le_of_lt_succ x.isLt) hle)

theorem Effect.writesVf (h : Effect s i t) (hne : t.reg 0xF#4 ≠ s.reg 0xF#4) : WritesVf s.cfg i := by
  cases h with
  | register hvf => exact hvf (State.eq_flagReg_of_setReg_ne (s := s.advance) hne)
  | logic hvf => exact hvf (State.vf_of_setLogic_ne (s := s.advance) hne)
  | resultFlag hvf => exact hvf
  | rand => exact State.eq_flagReg_of_setReg_ne (s := s.advance) hne
  | waitKey => exact State.eq_flagReg_of_setReg_ne (s := s.advance) hne
  | draw => trivial
  | load x => exact State.eq_flagReg_of_loadRegs_ne (s := s.advance) hne
  | call => exact absurd rfl hne
  | ret => exact absurd rfl hne
  | _ => exact absurd (by simp) hne

theorem Effect.cfg_eq (h : Effect s i t) : t.cfg = s.cfg := by
  cases h <;> simp

theorem Effect.key_eq (h : Effect s i t) : t.key = s.key := by
  cases h <;> simp

end Writers

/-! ### What an instruction keeps of the invariant -/

section Invariant

variable {s t : State} {i : Instr}

/-- BCD and STORE write inside the span they have checked (R173, R174). -/
theorem Effect.mem_wf (h : Effect s i t) (hm : s.mem.wf) : t.mem.wf := by
  cases h with
  | bcd x hspan =>
    have hin := (s.spanInBounds_iff _).mp hspan
    exact Memory.wf_writeSpan hm _ (hin.resolve_left (by omega))
  | store x hspan =>
    have hin := (s.spanInBounds_iff _).mp hspan
    refine Memory.wf_writeSpan hm _ ?_
    rw [s.regsUpTo_length]
    exact hin.resolve_left (by omega)
  | _ => simpa using hm

/-- CALL pushes only where there is room (R132, R203). -/
theorem Effect.stackBounded (h : Effect s i t) (hs : s.StackBounded) : t.StackBounded := by
  unfold State.StackBounded at hs ⊢
  cases h with
  | call nnn hroom =>
    simp only [List.length_append, List.length_singleton]
    omega
  | ret =>
    simp only [List.length_dropLast]
    omega
  | _ => simpa using hs

/-- An error writes the run state and the halt record together; no other effect writes either (R96). -/
theorem Effect.haltRecorded (h : Effect s i t) (hh : s.HaltRecorded) : t.HaltRecorded := by
  cases h with
  | outOfBounds | overflow | underflow => simp [State.HaltRecorded]
  | _ => simpa [State.HaltRecorded] using hh

theorem zeroExtend16_toNat_le (nnn : Addr) : (zeroExtend16 nnn).toNat ≤ 0xFFF := by
  have := nnn.isLt
  simp only [zeroExtend16, BitVec.toNat_setWidth]
  omega

/-- The computed jump's sum is not reduced, and 0xFFF + 0xFF is the bound of R25. -/
theorem jumpV0_target_le (nnn : Addr) (b : Byte) : (zeroExtend16 nnn + byteToWord b).toNat ≤ 0x10FE := by
  have := zeroExtend16_toNat_le nnn
  have := b.isLt
  simp only [byteToWord, BitVec.toNat_add, BitVec.toNat_setWidth]
  omega

/-- From a PC at which a word can be fetched, PC and the return addresses stay in their bounds (R25). -/
theorem Effect.pcBounded (h : Effect s i t) (hfetch : s.pc.toNat ≤ 0xFFE) (hp : s.PcBounded) : t.PcBounded := by
  obtain ⟨hpc, hstack⟩ := hp
  have hnext : (s.pc + 2#16).toNat ≤ 0x1000 := by bv_omega
  have hadvance : (s.pc + 2#16).toNat ≤ 0x10FE := by omega
  cases h with
  | outOfBounds | overflow | underflow | hold => exact ⟨hpc, hstack⟩
  | skip _ c =>
    refine ⟨?_, by simpa using hstack⟩
    rw [State.skipIf_pc, State.advance_pc]
    split
    · bv_omega
    · exact hadvance
  | jump nnn => exact ⟨(zeroExtend16_toNat_le nnn).trans (by omega), hstack⟩
  | jumpV0 nnn => exact ⟨jumpV0_target_le nnn _, hstack⟩
  | call nnn =>
    refine ⟨(zeroExtend16_toNat_le nnn).trans (by omega), fun a ha => ?_⟩
    rcases List.mem_append.mp ha with ha | ha
    · exact hstack a ha
    · rwa [List.mem_singleton.mp ha]
  | ret hlast =>
    exact ⟨(hstack _ (List.mem_of_getLast? hlast)).trans (by omega), fun a ha => hstack a (List.mem_of_mem_dropLast ha)⟩
  | _ => exact ⟨by simpa using hadvance, by simpa using hstack⟩

/-- The minimal profile has no CALL (R3, R110). -/
theorem Effect.minimalStackEmpty (h : Effect s i t) (hi : wellFormed s.cfg.profile i = true)
    (hs : s.MinimalStackEmpty) : t.MinimalStackEmpty := by
  intro hp
  have hmin : s.cfg.profile = .minimal := h.cfg_eq ▸ hp
  have hempty := hs hmin
  rw [hmin] at hi
  cases h with
  | call => exact absurd hi (by simp [wellFormed, Instr.documented])
  | ret => simp [hempty]
  | _ => simpa using hempty

/-- An instruction of the profile, fetched from memory, keeps the invariant. -/
theorem Effect.inv (h : Effect s i t) (hfetch : s.pc.toNat ≤ 0xFFE) (hi : wellFormed s.cfg.profile i = true)
    (hs : s.Inv) : t.Inv := by
  obtain ⟨hmem, hstack, hhalt, hpc, hmin⟩ := hs
  exact ⟨h.mem_wf hmem, h.stackBounded hstack, h.haltRecorded hhalt, h.pcBounded hfetch hpc, h.minimalStackEmpty hi hmin⟩

/-- An error or a stop keeps the invariant, whatever it records. -/
theorem State.inv_haltWith (hs : s.Inv) (r : HaltReason) (p : Word) (w : Option Word) : (s.haltWith r p w).Inv := by
  obtain ⟨hmem, hstack, -, hpc, hmin⟩ := hs
  exact ⟨hmem, hstack, by simp [State.HaltRecorded], hpc, hmin⟩

end Invariant

/-! ### What a host action can do -/

/-- Every state that a host action can leave `s` in, with the condition under which it is enabled (R218). An
action that is not enabled leaves `s` (log entry 8). -/
inductive HostEffect (s : State) : HostAction → State → Prop
  | disabled {a : HostAction} (ha : ¬ Enabled s a) : HostEffect s a s
  | load {rom : List Byte} (hready : s.run = .ready) (hfits : rom.length ≤ maxRom) :
      HostEffect s (.loadRom rom) { s with mem := s.mem.writeSpan progBase rom, run := .running }
  | tooLarge {rom : List Byte} (hready : s.run = .ready) (hlong : maxRom < rom.length) :
      HostEffect s (.loadRom rom) (s.haltWith .romTooLarge (BitVec.ofNat 16 progBase) none)
  | stop (hrun : s.run ≠ .halted) : HostEffect s .stop (s.haltWith .stopped s.pc none)
  | setKey (k : Nibble) (down : Bool) (hrun : s.run ≠ .halted) :
      HostEffect s (.setKey k down) { s with key := s.key.set k.toNat down k.isLt }
  | tick (hrun : s.run = .running) : HostEffect s .tick { s with dt := countDown s.dt, st := countDown s.st }
  | present : HostEffect s .present { s with dirty := false }

theorem State.loadRom_effect (rom : List Byte) (s : State) : HostEffect s (.loadRom rom) (s.loadRom rom) := by
  unfold State.loadRom
  split <;> rename_i hrun
  · split <;> rename_i hlen
    · exact .load hrun hlen
    · exact .tooLarge hrun (not_le.mp hlen)
  · exact .disabled (by simp [Enabled, hrun])
  · exact .disabled (by simp [Enabled, hrun])

theorem State.stop_effect (s : State) : HostEffect s .stop s.stop := by
  unfold State.stop
  split <;> rename_i hrun
  · exact .stop (by simp [hrun])
  · exact .stop (by simp [hrun])
  · exact .disabled (by simp [Enabled, hrun])

theorem State.setKey_effect (k : Nibble) (down : Bool) (s : State) :
    HostEffect s (.setKey k down) (s.setKey k down) := by
  unfold State.setKey
  split <;> rename_i hrun
  · exact .setKey k down (by simp [hrun])
  · exact .setKey k down (by simp [hrun])
  · exact .disabled (by simp [Enabled, hrun])

theorem State.tick_effect (s : State) : HostEffect s .tick s.tick := by
  unfold State.tick
  split <;> rename_i hrun
  · exact .disabled (by simp [Enabled, hrun])
  · exact .tick hrun
  · exact .disabled (by simp [Enabled, hrun])

theorem State.hostAct_effect (a : HostAction) (s : State) : HostEffect s a (State.hostAct a s) :=
  match a with
  | .loadRom rom => s.loadRom_effect rom
  | .stop => s.stop_effect
  | .setKey k down => s.setKey_effect k down
  | .tick => s.tick_effect
  | .present => .present

section HostActions

variable {s t : State} {a : HostAction}

theorem HostEffect.cfg_eq (h : HostEffect s a t) : t.cfg = s.cfg := by
  cases h <;> rfl

theorem HostEffect.eq_setKey (h : HostEffect s a t) (hne : t.key ≠ s.key) : ∃ k down, a = .setKey k down := by
  cases h with
  | setKey k down => exact ⟨k, down, rfl⟩
  | _ => exact absurd rfl hne

/-- A host action keeps the invariant: LoadRom writes inside memory and leaves Ready, where there is no halt
record; Stop and a ROM too large write the run state and the record together. -/
theorem HostEffect.inv (h : HostEffect s a t) (hs : s.Inv) : t.Inv := by
  cases h with
  | load hready hfits =>
    obtain ⟨hmem, hstack, hhalt, hpc, hmin⟩ := hs
    refine ⟨Memory.wf_writeSpan hmem _ ?_, hstack, ?_, hpc, hmin⟩
    · unfold progBase memSize
      unfold maxRom at hfits
      omega
    · simpa [State.HaltRecorded, hready] using hhalt
  | tooLarge | stop => exact State.inv_haltWith hs ..
  | _ => exact hs

end HostActions

/-! ### What a step can do -/

/-- A step is a host action that was due, or a cycle of a Running engine: an error of the cycle itself, or an
instruction of the profile that was fetched (R100, R218). -/
theorem step_cases {s t : State} (h : step s = .next t) :
    (∃ a rest, s.schedule = .host a :: rest ∧ HostEffect s.dequeue a t) ∨
    (∃ r w, t = s.dequeue.haltWith r s.pc w) ∨
    (∃ i, s.pc.toNat ≤ 0xFFE ∧ wellFormed s.cfg.profile i = true ∧ Effect s.dequeue i t) := by
  rcases s.due_cases with hcycle | ⟨a, rest, hhost⟩
  · rw [step_of_cycleDue hcycle] at h
    obtain ⟨-, ⟨-, rfl⟩ | ⟨w, -, -, rfl⟩ | ⟨w, i, hfetch, hdecode, hexec⟩⟩ := cycle_cases h
    · exact .inr (.inl ⟨_, _, rfl⟩)
    · exact .inr (.inl ⟨_, _, rfl⟩)
    · obtain ⟨hpc, -⟩ := State.fetch_eq_some.mp hfetch
      obtain ⟨-, hwf⟩ := decode_eq_ok.mp hdecode
      exact .inr (.inr ⟨i, Nat.le_of_succ_le_succ hpc, hwf, effect_of_exec hexec⟩)
  · rw [step_of_host hhost] at h
    cases h
    exact .inl ⟨a, rest, hhost, s.dequeue.hostAct_effect a⟩

/-! ### Construction -/

/-- The font table lies at 0x050-0x09F and nowhere else (R54, R55). -/
theorem fontByte_of_font {a : Nat} (hlo : 0x050 ≤ a) (hhi : a ≤ 0x09F) :
    fontByte a = some (fontTable.getD (a - 0x050) 0#8) := by
  have hlen : a - 0x050 < fontTable.length := by
    rw [show fontTable.length = 80 from rfl]
    omega
  rw [fontByte, fontBase, if_pos hlo, List.getD_eq_getElem?_getD, List.getElem?_eq_getElem hlen, Option.getD_some]

theorem fontByte_outside_font {a : Nat} (h : a < 0x050 ∨ 0x09F < a) : fontByte a = none := by
  unfold fontByte fontBase
  split
  · refine List.getElem?_eq_none ?_
    rw [show fontTable.length = 80 from rfl]
    omega
  · rfl

theorem State.construct_mem (cfg : Config) (fill : Nat → Byte) :
    (State.construct cfg fill).mem = Memory.construct fill := by
  unfold State.construct
  with_reducible rfl

theorem State.construct_inv (cfg : Config) (fill : Nat → Byte) : (State.construct cfg fill).Inv := by
  have hmem : (State.construct cfg fill).mem.wf := by
    rw [State.construct_mem]
    exact Memory.wf_construct fill
  exact ⟨hmem, Nat.zero_le _, by simp [State.HaltRecorded, State.construct, State.reset],
    ⟨by simp [State.construct, State.reset], fun _ ha => nomatch ha⟩, fun _ => rfl⟩

theorem State.construct_read (cfg : Config) (fill : Nat → Byte) {a : Nat} (ha : a < memSize) :
    (State.construct cfg fill).mem.read a = initialByte fill a := by
  rw [State.construct_mem, Memory.read_construct fill ha]

end Sys2Proof.Machine

/-! ## The obligations -/

namespace Sys2Proof.Proofs

open Sys2Proof.Machine

/-- Settles O18: a host action, an error and an instruction each keep every part of the invariant. -/
theorem stepKeepsTheMachineSound : Obligations.StepKeepsTheMachineSound := by
  unfold Obligations.StepKeepsTheMachineSound
  intro s t hs hstep
  have hd : s.dequeue.Inv := hs
  rcases step_cases hstep with ⟨a, rest, -, hhost⟩ | ⟨r, w, rfl⟩ | ⟨i, hpc, hwf, heffect⟩
  · exact hhost.inv hd
  · exact State.inv_haltWith hd ..
  · exact heffect.inv hpc hwf hd

/-- Settles O20: the memory by `Memory.read_construct`, the rest as `State.construct` sets it. -/
theorem constructionGivesResetValues : Obligations.ConstructionGivesResetValues := by
  unfold Obligations.ConstructionGivesResetValues
  intro cfg fill s
  refine ⟨fun r => ?_, rfl, rfl, rfl, fun a hlo hhi => ?_, fun a ha hout => ?_, Display.pixel_blank, fun k => ?_,
    rfl, rfl, rfl, rfl, rfl, rfl, State.construct_inv cfg fill⟩
  · exact Vector.getElem_replicate _
  · rw [State.construct_read cfg fill (by unfold memSize; omega), initialByte, fontByte_of_font hlo hhi, Option.getD_some]
  · rw [State.construct_read cfg fill ha, initialByte, fontByte_outside_font hout, Option.getD_none]
  · exact Vector.getElem_replicate _

/-- Settles O22: no effect writes the configuration, and SetKey is the only one that writes the keypad. -/
theorem stepKeepsConfigurationAndKeypad : Obligations.StepKeepsConfigurationAndKeypad := by
  unfold Obligations.StepKeepsConfigurationAndKeypad
  intro s t hstep
  rcases step_cases hstep with ⟨a, rest, hdue, hhost⟩ | ⟨r, w, rfl⟩ | ⟨i, -, -, heffect⟩
  · refine ⟨hhost.cfg_eq, fun hne => ?_⟩
    obtain ⟨k, down, rfl⟩ := hhost.eq_setKey hne
    exact ⟨k, down, rest, hdue⟩
  · exact ⟨rfl, fun hne => absurd rfl hne⟩
  · exact ⟨heffect.cfg_eq, fun hne => absurd heffect.key_eq hne⟩

/-- Settles O23: the writers of each part, read off the effects. -/
theorem onlyNamedInstructionsWriteEachPart : Obligations.OnlyNamedInstructionsWriteEachPart := by
  unfold Obligations.OnlyNamedInstructionsWriteEachPart
  intro i s t hexec
  have h := effect_of_exec hexec
  exact ⟨h.writesIndex, h.writesStack, h.writesMemory, h.writesDisplay, h.writesDisplay_of_dirty, h.eq_setDt,
    h.eq_setSt, h.takesAnswer⟩

/-- Settles O24: VF is a flag or the destination of the effect that changes it. -/
theorem onlyListedInstructionsWriteVf : Obligations.OnlyListedInstructionsWriteVf := by
  unfold Obligations.OnlyListedInstructionsWriteVf
  intro i s t hexec
  exact (effect_of_exec hexec).writesVf

/-- Settles O19: reset is construction with the defaults, which meets the invariant. -/
theorem resetIsSound : Obligations.ResetIsSound := by
  unfold Obligations.ResetIsSound
  rw [← State.construct_default]
  exact State.construct_inv _ _

end Sys2Proof.Proofs
end

section
/-! PROOFS, family `20_memory`: what the font area of a reset machine reads as. -/

namespace Sys2Proof.Machine

/-- A byte read from the font area after reset is the font table's (R54, R55). -/
theorem State.reset_read_font {a : Nat} (hlo : 0x050 ≤ a) (hhi : a ≤ 0x09F) :
    State.reset.mem.read a = fontTable.getD (a - 0x050) 0#8 := by
  rw [← State.construct_default, State.construct_read _ _ (by unfold memSize; omega), initialByte,
    fontByte_of_font hlo hhi, Option.getD_some]

/-- A span inside the font area reads, after reset, as the piece of the font table at its offset. -/
theorem State.reset_readSpan_font {a n : Nat} (hlo : 0x050 ≤ a) (hhi : a + n ≤ 0x0A0) :
    State.reset.mem.readSpan a n = (fontTable.drop (a - 0x050)).take n := by
  have hlen : fontTable.length = 80 := rfl
  refine List.ext_getElem ?_ fun k hk hk' => ?_
  · rw [Memory.readSpan_length, List.length_take, List.length_drop]
    omega
  · have hkn : k < n := by rwa [Memory.readSpan_length] at hk
    have hoff : a + k - 0x050 = a - 0x050 + k := by omega
    rw [Memory.readSpan_getElem, State.reset_read_font (by omega) (by omega), hoff, List.getElem_take,
      List.getElem_drop, List.getD_eq_getElem]

end Sys2Proof.Machine

/-! ## The obligations -/

namespace Sys2Proof.Proofs

open Sys2Proof.Machine

/-- Settles O21: each glyph is the piece of the font table at five times its digit. -/
theorem fontTableAfterReset : Obligations.FontTableAfterReset := by
  unfold Obligations.FontTableAfterReset
  simp only [State.reset_readSpan_font, Nat.reduceLeDiff, Nat.reduceAdd]
  decide

end Sys2Proof.Proofs
end

section
/-! PROOFS, family `30_encoding`: a word decodes to an instruction exactly when it is the instruction's word. -/

open Sys2Proof.Claims

namespace Sys2Proof

/-! ### A word from its fields -/

/-- A word of a known family is its form of its own fields, in each of the three forms. -/
theorem formNNN_of_family {w : Word} {f : Nibble} (h : family w = f) : formNNN f (fieldNNN w) = w :=
  h ▸ formNNN_fields w

theorem formXNN_of_family {w : Word} {f : Nibble} (h : family w = f) : formXNN f (fieldX w) (fieldNN w) = w :=
  h ▸ formXNN_fields w

theorem formXYN_of_family {w : Word} {f : Nibble} (h : family w = f) :
    formXYN f (fieldX w) (fieldY w) (fieldN w) = w :=
  h ▸ formXYN_fields w

/-- A field as R67 writes it: a shift, then a mask of the field's width. -/
theorem field_eq_shift_and_mask (w : Word) (lo n : Nat) :
    (w.extractLsb' lo n).setWidth 16 = (w >>> lo) &&& (BitVec.allOnes n).setWidth 16 := by
  ext k hk
  simp only [BitVec.getElem_setWidth, BitVec.getLsbD_extractLsb', BitVec.getElem_and, BitVec.getElem_ushiftRight,
    BitVec.getLsbD_allOnes, Bool.and_comm]

/-! ### The decoder, family by family -/

theorem decodeStandard_family0 {w : Word} (h : family w = 0x0#4) :
    decodeStandard w = if w = 0x00E0#16 then some .clear else if w = 0x00EE#16 then some .ret else none := by
  rw [decodeStandard, h]
  rfl

theorem decodeStandard_family5 {w : Word} (h : family w = 0x5#4) :
    decodeStandard w = if fieldN w = 0#4 then some (.skipEqReg (fieldX w) (fieldY w)) else none := by
  rw [decodeStandard, h]
  rfl

theorem decodeStandard_family8 {w : Word} (h : family w = 0x8#4) :
    decodeStandard w = decodeAlu (fieldX w) (fieldY w) (fieldN w) := by
  rw [decodeStandard, h]
  rfl

theorem decodeStandard_family9 {w : Word} (h : family w = 0x9#4) :
    decodeStandard w = if fieldN w = 0#4 then some (.skipNeReg (fieldX w) (fieldY w)) else none := by
  rw [decodeStandard, h]
  rfl

theorem decodeStandard_familyE {w : Word} (h : family w = 0xE#4) :
    decodeStandard w = decodeKey (fieldX w) (fieldNN w) := by
  rw [decodeStandard, h]
  rfl

theorem decodeStandard_familyF {w : Word} (h : family w = 0xF#4) :
    decodeStandard w = decodeMisc (fieldX w) (fieldNN w) := by
  rw [decodeStandard, h]
  rfl

/-- The unassigned values of N in family 0x8 (R72). -/
theorem decodeAlu_eq_none {x y n : Nibble} (hn : n.toNat ∈ [0x8, 0x9, 0xA, 0xB, 0xC, 0xD, 0xF]) :
    decodeAlu x y n = none := by
  unfold decodeAlu
  split
  case h_10 => rfl
  all_goals simp [*] at hn

/-- The unassigned values of NN in families 0xE and 0xF (R73). -/
theorem decodeKey_eq_none {x : Nibble} {nn : Byte} (hnn : nn.toNat ∉ [0x9E, 0xA1]) : decodeKey x nn = none := by
  unfold decodeKey
  split
  case h_3 => rfl
  all_goals simp [*] at hnn

theorem decodeMisc_eq_none {x : Nibble} {nn : Byte}
    (hnn : nn.toNat ∉ [0x07, 0x0A, 0x15, 0x18, 0x1E, 0x29, 0x33, 0x55, 0x65]) : decodeMisc x nn = none := by
  unfold decodeMisc
  split
  case h_10 => rfl
  all_goals simp [*] at hnn

/-! ### The two directions of the round trip -/

/-- The family alone selects the instruction, but in family 0, where the whole word does, and in families 5, 8, 9, E
and F, where N or NN is read too. -/
theorem decodeStandard_encode (i : Instr) : decodeStandard (encode i) = some i := by
  cases i with
  | clear | ret => rfl
  | jump | call | setI | jumpV0 | skipEqImm | skipNeImm | setImm | addImm | rand | draw =>
    simp [encode, decodeStandard]
  | skipEqReg => simp [encode, decodeStandard_family5]
  | skipNeReg => simp [encode, decodeStandard_family9]
  | setReg | orReg | andReg | xorReg | addReg | subReg | shr | subn | shl =>
    simp [encode, decodeStandard_family8, decodeAlu]
  | skipKey | skipNkey => simp [encode, decodeStandard_familyE, decodeKey]
  | getDt | waitKey | setDt | setSt | addI | font | bcd | store | load =>
    simp [encode, decodeStandard_familyF, decodeMisc]

/-- What family 0x8 decodes to has the N it was decoded on (R72). -/
theorem encode_of_decodeAlu {x y n : Nibble} {i : Instr} (h : decodeAlu x y n = some i) :
    encode i = formXYN 0x8#4 x y n := by
  unfold decodeAlu at h
  split at h <;> cases h
  all_goals exact congrArg (formXYN 0x8#4 x y) (BitVec.eq_of_toNat_eq (Eq.symm ‹_›))

/-- What families 0xE and 0xF decode to has the NN it was decoded on (R73). -/
theorem encode_of_decodeKey {x : Nibble} {nn : Byte} {i : Instr} (h : decodeKey x nn = some i) :
    encode i = formXNN 0xE#4 x nn := by
  unfold decodeKey at h
  split at h <;> cases h
  all_goals exact congrArg (formXNN 0xE#4 x) (BitVec.eq_of_toNat_eq (Eq.symm ‹_›))

theorem encode_of_decodeMisc {x : Nibble} {nn : Byte} {i : Instr} (h : decodeMisc x nn = some i) :
    encode i = formXNN 0xF#4 x nn := by
  unfold decodeMisc at h
  split at h <;> cases h
  all_goals exact congrArg (formXNN 0xF#4 x) (BitVec.eq_of_toNat_eq (Eq.symm ‹_›))

/-- What the opcode map reads from a word has that word: in every family the instruction carries exactly the
fields that the family does not fix. -/
theorem encode_of_decodeStandard {w : Word} {i : Instr} (h : decodeStandard w = some i) : encode i = w := by
  unfold decodeStandard at h
  split at h <;> rename_i hf
  case h_1 => -- family 0x0, on the whole word
    split at h
    · cases h; exact (‹w = 0x00E0#16›).symm
    · split at h <;> cases h
      exact (‹w = 0x00EE#16›).symm
  case h_2 | h_3 | h_11 | h_12 => -- NNN
    cases h
    exact formNNN_of_family (BitVec.eq_of_toNat_eq hf)
  case h_4 | h_5 | h_7 | h_8 | h_13 => -- X and NN
    cases h
    exact formXNN_of_family (BitVec.eq_of_toNat_eq hf)
  case h_6 | h_10 => -- X and Y, with N = 0
    split at h <;> cases h
    rename_i hn
    exact (congrArg (formXYN _ _ _) hn.symm).trans (formXYN_of_family (BitVec.eq_of_toNat_eq hf))
  case h_14 => -- X, Y and N
    cases h
    exact formXYN_of_family (BitVec.eq_of_toNat_eq hf)
  case h_9 => exact (encode_of_decodeAlu h).trans (formXYN_of_family (BitVec.eq_of_toNat_eq hf))
  case h_15 => exact (encode_of_decodeKey h).trans (formXNN_of_family (BitVec.eq_of_toNat_eq hf))
  case h_16 => exact (encode_of_decodeMisc h).trans (formXNN_of_family (BitVec.eq_of_toNat_eq hf))
  case h_17 => cases h

/-- The opcode map reads an instruction from exactly one word, the instruction's own (R70, R76). -/
theorem decodeStandard_eq_some {w : Word} {i : Instr} : decodeStandard w = some i ↔ encode i = w :=
  ⟨encode_of_decodeStandard, fun h => h ▸ decodeStandard_encode i⟩

/-- The decoder of a profile: the words of the profile's instructions, each read as its own (R75). -/
theorem decode_eq_ok_iff_encode {p : Profile} {w : Word} {i : Instr} :
    decode p w = .ok i ↔ encode i = w ∧ wellFormed p i = true := by
  rw [Machine.decode_eq_ok, decodeStandard_eq_some]

/-- A word that the opcode map does not have is unknown in both profiles (R75, R76). -/
theorem decode_of_decodeStandard_eq_none {w : Word} (h : decodeStandard w = none) (p : Profile) :
    decode p w = .error (.unknownOpcode w) := by
  rw [decode, h]

/-! ### The rows of the opcode table

A word that matches a row is the row's form of the row's fixed fields and of the word's own operand fields, so it is
the word of an instruction with those operands. One lemma for each shape of
operands; for a row given by literals its hypotheses hold by computation. -/

section Rows

variable {pattern mask : Word} {d : Bool}

/-- The encoding line of an instruction, from its words and its place in the profiles. -/
theorem encodedAs_of_encode {i : Word → Instr} (hi : ∀ w, w &&& mask = pattern → encode (i w) = w)
    (hd : ∀ w, (i w).documented = d) : EncodedAs pattern mask d i := by
  intro w hw
  have hmap : decodeStandard w = some (i w) := decodeStandard_eq_some.mpr (hi w hw)
  constructor <;> rw [decode, hmap]
  · rfl
  · simp only [wellFormed, hd]

theorem encodedAs_whole (i : Instr) (hi : encode i = pattern := by rfl) (hd : i.documented = d := by rfl) :
    EncodedAs pattern 0xFFFF d (fun _ => i) :=
  encodedAs_of_encode (fun _ hw => hi.trans (hw.symm.trans BitVec.and_allOnes)) fun _ => hd

theorem encodedAs_nnn (i : Addr → Instr) (f : Nibble) (hi : ∀ nnn, encode (i nnn) = formNNN f nnn := by intros; rfl)
    (hd : ∀ nnn, (i nnn).documented = d := by intros; rfl) (hp : family pattern = f := by rfl) :
    EncodedAs pattern 0xF000 d (fun w => i (fieldNNN w)) :=
  encodedAs_of_encode
    (fun _ hw => (hi _).trans (formNNN_of_family ((field_of_masked 12 4 hw rfl).trans hp))) fun _ => hd _

theorem encodedAs_xnn (i : Nibble → Byte → Instr) (f : Nibble)
    (hi : ∀ x nn, encode (i x nn) = formXNN f x nn := by intros; rfl)
    (hd : ∀ x nn, (i x nn).documented = d := by intros; rfl) (hp : family pattern = f := by rfl) :
    EncodedAs pattern 0xF000 d (fun w => i (fieldX w) (fieldNN w)) :=
  encodedAs_of_encode
    (fun _ hw => (hi _ _).trans (formXNN_of_family ((field_of_masked 12 4 hw rfl).trans hp))) fun _ => hd _ _

theorem encodedAs_xyn (i : Nibble → Nibble → Nibble → Instr) (f : Nibble)
    (hi : ∀ x y n, encode (i x y n) = formXYN f x y n := by intros; rfl)
    (hd : ∀ x y n, (i x y n).documented = d := by intros; rfl) (hp : family pattern = f := by rfl) :
    EncodedAs pattern 0xF000 d (fun w => i (fieldX w) (fieldY w) (fieldN w)) :=
  encodedAs_of_encode
    (fun _ hw => (hi _ _ _).trans (formXYN_of_family ((field_of_masked 12 4 hw rfl).trans hp))) fun _ => hd _ _ _

theorem encodedAs_xy (i : Nibble → Nibble → Instr) (f n : Nibble)
    (hi : ∀ x y, encode (i x y) = formXYN f x y n := by intros; rfl)
    (hd : ∀ x y, (i x y).documented = d := by intros; rfl) (hp : pattern = formXYN f 0 0 n := by rfl) :
    EncodedAs pattern 0xF00F d (fun w => i (fieldX w) (fieldY w)) := by
  refine encodedAs_of_encode (fun w hw => ?_) fun _ => hd _ _
  subst hp
  have hf : family w = f := (field_of_masked 12 4 hw rfl).trans (family_formXYN ..)
  have hn : fieldN w = n := (field_of_masked 0 4 hw rfl).trans (fieldN_formXYN ..)
  rw [hi, ← hn, formXYN_of_family hf]

theorem encodedAs_x (i : Nibble → Instr) (f : Nibble) (nn : Byte)
    (hi : ∀ x, encode (i x) = formXNN f x nn := by intros; rfl)
    (hd : ∀ x, (i x).documented = d := by intros; rfl) (hp : pattern = formXNN f 0 nn := by rfl) :
    EncodedAs pattern 0xF0FF d (fun w => i (fieldX w)) := by
  refine encodedAs_of_encode (fun w hw => ?_) fun _ => hd _
  subst hp
  have hf : family w = f := (field_of_masked 12 4 hw rfl).trans (family_formXNN ..)
  have hnn : fieldNN w = nn := (field_of_masked 0 8 hw rfl).trans (fieldNN_formXNN ..)
  rw [hi, ← hnn, formXNN_of_family hf]

end Rows

/-- The row is the encoding line of some instruction. -/
def OpcodeRow.Encodes (r : OpcodeRow) : Prop := ∃ i, EncodedAs r.pattern r.mask r.inBoth i

theorem opcodeRowsLow_encode : ∀ r ∈ opcodeRowsLow, r.Encodes := by
  simp only [opcodeRowsLow, List.forall_mem_cons, List.not_mem_nil, false_imp_iff, implies_true, and_true]
  exact ⟨
    ⟨_, encodedAs_whole .clear⟩,
    ⟨_, encodedAs_whole .ret⟩,
    ⟨_, encodedAs_nnn .jump 0x1⟩,
    ⟨_, encodedAs_nnn .call 0x2⟩,
    ⟨_, encodedAs_xnn .skipEqImm 0x3⟩,
    ⟨_, encodedAs_xnn .skipNeImm 0x4⟩,
    ⟨_, encodedAs_xy .skipEqReg 0x5 0x0⟩,
    ⟨_, encodedAs_xnn .setImm 0x6⟩,
    ⟨_, encodedAs_xnn .addImm 0x7⟩⟩

theorem opcodeRowsAlu_encode : ∀ r ∈ opcodeRowsAlu, r.Encodes := by
  simp only [opcodeRowsAlu, List.forall_mem_cons, List.not_mem_nil, false_imp_iff, implies_true, and_true]
  exact ⟨
    ⟨_, encodedAs_xy .setReg 0x8 0x0⟩,
    ⟨_, encodedAs_xy .orReg 0x8 0x1⟩,
    ⟨_, encodedAs_xy .andReg 0x8 0x2⟩,
    ⟨_, encodedAs_xy .xorReg 0x8 0x3⟩,
    ⟨_, encodedAs_xy .addReg 0x8 0x4⟩,
    ⟨_, encodedAs_xy .subReg 0x8 0x5⟩,
    ⟨_, encodedAs_xy .shr 0x8 0x6⟩,
    ⟨_, encodedAs_xy .subn 0x8 0x7⟩,
    ⟨_, encodedAs_xy .shl 0x8 0xE⟩⟩

theorem opcodeRowsHigh_encode : ∀ r ∈ opcodeRowsHigh, r.Encodes := by
  simp only [opcodeRowsHigh, List.forall_mem_cons, List.not_mem_nil, false_imp_iff, implies_true, and_true]
  exact ⟨
    ⟨_, encodedAs_xy .skipNeReg 0x9 0x0⟩,
    ⟨_, encodedAs_nnn .setI 0xA⟩,
    ⟨_, encodedAs_nnn .jumpV0 0xB⟩,
    ⟨_, encodedAs_xnn .rand 0xC⟩,
    ⟨_, encodedAs_xyn .draw 0xD⟩,
    ⟨_, encodedAs_x .skipKey 0xE 0x9E⟩,
    ⟨_, encodedAs_x .skipNkey 0xE 0xA1⟩,
    ⟨_, encodedAs_x .getDt 0xF 0x07⟩,
    ⟨_, encodedAs_x .waitKey 0xF 0x0A⟩,
    ⟨_, encodedAs_x .setDt 0xF 0x15⟩,
    ⟨_, encodedAs_x .setSt 0xF 0x18⟩,
    ⟨_, encodedAs_x .addI 0xF 0x1E⟩,
    ⟨_, encodedAs_x .font 0xF 0x29⟩,
    ⟨_, encodedAs_x .bcd 0xF 0x33⟩,
    ⟨_, encodedAs_x .store 0xF 0x55⟩,
    ⟨_, encodedAs_x .load 0xF 0x65⟩⟩

theorem opcodeTable_encodes {r : OpcodeRow} (hr : r ∈ opcodeTable) : r.Encodes := by
  rw [opcodeTable, List.mem_append, List.mem_append] at hr
  rcases hr with (hr | hr) | hr
  · exact opcodeRowsLow_encode r hr
  · exact opcodeRowsAlu_encode r hr
  · exact opcodeRowsHigh_encode r hr

theorem OpcodeRow.covers_iff {r : OpcodeRow} {w : Word} : r.covers w = true ↔ w &&& r.mask = r.pattern := beq_iff_eq

/-- Two rows whose patterns agree where both masks look are one row. -/
theorem opcodeTable_apart : ∀ r ∈ opcodeTable, ∀ r' ∈ opcodeTable,
    r.pattern &&& r'.mask = r'.pattern &&& r.mask → r = r' := by
  decide

/-- The words of the six documented instructions, which are the whole minimal profile (R75). -/
theorem exists_documented_iff {w : Word} :
    (∃ i, encode i = w ∧ i.documented = true) ↔
      w = 0x00E0#16 ∨ family w = 0x1#4 ∨ family w = 0x6#4 ∨ family w = 0x7#4 ∨ family w = 0xA#4 ∨ family w = 0xD#4 := by
  constructor
  · rintro ⟨i, rfl, hdoc⟩
    cases i with
    | clear => exact .inl rfl
    | jump | setImm | addImm | setI | draw => simp [encode]
    | _ => cases hdoc
  · rintro (rfl | h | h | h | h | h)
    · exact ⟨.clear, rfl, rfl⟩
    · exact ⟨.jump _, formNNN_of_family h, rfl⟩
    · exact ⟨.setImm _ _, formXNN_of_family h, rfl⟩
    · exact ⟨.addImm _ _, formXNN_of_family h, rfl⟩
    · exact ⟨.setI _, formNNN_of_family h, rfl⟩
    · exact ⟨.draw _ _ _, formXYN_of_family h, rfl⟩

end Sys2Proof

namespace Sys2Proof.Laws.TableRow

/-- Every instruction has its row of the opcode table. -/
theorem statement (i : Instr) : Statement i :=
  match i with
  | .clear => clear
  | .ret => ret
  | .jump nnn => jump nnn
  | .call nnn => call nnn
  | .skipEqImm x nn => skipEqImm x nn
  | .skipNeImm x nn => skipNeImm x nn
  | .skipEqReg x y => skipEqReg x y
  | .setImm x nn => setImm x nn
  | .addImm x nn => addImm x nn
  | .setReg x y => setReg x y
  | .orReg x y => orReg x y
  | .andReg x y => andReg x y
  | .xorReg x y => xorReg x y
  | .addReg x y => addReg x y
  | .subReg x y => subReg x y
  | .shr x y => shr x y
  | .subn x y => subn x y
  | .shl x y => shl x y
  | .skipNeReg x y => skipNeReg x y
  | .setI nnn => setI nnn
  | .jumpV0 nnn => jumpV0 nnn
  | .rand x nn => rand x nn
  | .draw x y n => draw x y n
  | .skipKey x => skipKey x
  | .skipNkey x => skipNkey x
  | .getDt x => getDt x
  | .waitKey x => waitKey x
  | .setDt x => setDt x
  | .setSt x => setSt x
  | .addI x => addI x
  | .font x => font x
  | .bcd x => bcd x
  | .store x => store x
  | .load x => load x

end Sys2Proof.Laws.TableRow

/-! ## The obligations -/

namespace Sys2Proof.Proofs

open Sys2Proof.Machine

/-- Settles O1: the opcode map reads back the instruction, and the profile admits it. -/
theorem decodeInvertsEncode : Obligations.DecodeInvertsEncode := by
  unfold Obligations.DecodeInvertsEncode
  exact fun p i hwf => decode_eq_ok_iff_encode.mpr ⟨rfl, hwf⟩

/-- Settles O2: the converse, read off the families of the opcode map. -/
theorem encodeInvertsDecode : Obligations.EncodeInvertsDecode := by
  unfold Obligations.EncodeInvertsDecode
  exact fun p w i h => decode_eq_ok_iff_encode.mp h

/-- Settles O4: a word that two rows cover makes their patterns agree where both masks look. -/
theorem opcodeRowsAreDisjoint : Obligations.OpcodeRowsAreDisjoint := by
  unfold Obligations.OpcodeRowsAreDisjoint
  intro w r r' hr hr' hcov hcov'
  refine opcodeTable_apart r hr r' hr' ?_
  rw [← OpcodeRow.covers_iff.mp hcov, ← OpcodeRow.covers_iff.mp hcov', BitVec.and_assoc, BitVec.and_assoc,
    BitVec.and_comm r.mask]

/-- Settles O3: the six documented instructions for the minimal profile; for the standard one each instruction has a
row and each row is the encoding line of an instruction. -/
theorem profilesAcceptExactlyTheirRows : Obligations.ProfilesAcceptExactlyTheirRows := by
  unfold Obligations.ProfilesAcceptExactlyTheirRows
  intro w
  refine ⟨?_, ⟨?_, ?_⟩, fun p => decode_eq_error, fun i h => ?_⟩
  · simp only [decode_eq_ok_iff_encode]
    exact exists_documented_iff
  · rintro ⟨i, hi⟩
    obtain ⟨rfl, -⟩ := decode_eq_ok_iff_encode.mp hi
    obtain ⟨r, hr, -, -, hcov⟩ := Laws.TableRow.statement i
    exact ⟨r, hr, hcov⟩
  · rintro ⟨r, hr, hcov⟩
    obtain ⟨i, hi⟩ := opcodeTable_encodes hr
    exact ⟨i w, (hi w (OpcodeRow.covers_iff.mp hcov)).1⟩
  · obtain ⟨hmap, -⟩ := decode_eq_ok.mp h
    exact decode_eq_ok.mpr ⟨hmap, rfl⟩

/-- Settles O5: each field is a shift and a mask; the family's mask and the shift by 0 do nothing. -/
theorem fieldExtractorsShiftAndMask : Obligations.FieldExtractorsShiftAndMask := by
  unfold Obligations.FieldExtractorsShiftAndMask
  intro w
  refine ⟨?_, field_eq_shift_and_mask w 8 4, field_eq_shift_and_mask w 4 4, field_eq_shift_and_mask w 0 4,
    field_eq_shift_and_mask w 0 8, field_eq_shift_and_mask w 0 12⟩
  have hlt : w.toNat < 2 ^ 16 := w.isLt
  apply BitVec.eq_of_toNat_eq
  rw [family, BitVec.toNat_setWidth, toNat_field, BitVec.toNat_ushiftRight, Nat.shiftRight_eq_div_pow]
  omega

/-- Settles O6: the opcode map has two words of family 0x0, and the minimal profile drops the second. -/
theorem familyZeroIsDecodedOnTheWholeWord : Obligations.FamilyZeroIsDecodedOnTheWholeWord := by
  unfold Obligations.FamilyZeroIsDecodedOnTheWholeWord
  intro p w hf
  refine ⟨?_, ?_, fun hclear hret => decode_eq_error fun i hi => ?_⟩
  · rintro rfl
    exact decode_eq_ok_iff_encode.mpr ⟨rfl, by cases p <;> rfl⟩
  · rintro rfl rfl
    exact decode_eq_ok_iff_encode.mpr ⟨rfl, rfl⟩
  · obtain ⟨hmap, hwf⟩ := decode_eq_ok.mp hi
    rw [decodeStandard_family0 hf, if_neg hclear] at hmap
    split at hmap <;> cases hmap
    obtain rfl : p = .minimal := hret.resolve_left (not_not_intro ‹_›)
    cases hwf

/-- Settles O7: the opcode map has none of these words. -/
theorem unassignedSubOpcodesAreUnknown : Obligations.UnassignedSubOpcodesAreUnknown := by
  unfold Obligations.UnassignedSubOpcodesAreUnknown
  intro p w h
  refine decode_of_decodeStandard_eq_none ?_ p
  rcases h with ⟨hf | hf, hn⟩ | ⟨hf, hn⟩ | ⟨hf, hnn⟩ | ⟨hf, hnn⟩
  · rw [decodeStandard_family5 hf, if_neg hn]
  · rw [decodeStandard_family9 hf, if_neg hn]
  · rw [decodeStandard_family8 hf, decodeAlu_eq_none hn]
  · rw [decodeStandard_familyE hf, decodeKey_eq_none hnn]
  · rw [decodeStandard_familyF hf, decodeMisc_eq_none hnn]

/-- Settles O8: each word is the encoding of its instruction. -/
theorem writtenOutWordsDecode : Obligations.WrittenOutWordsDecode := by
  unfold Obligations.WrittenOutWordsDecode
  simp only [decode_eq_ok_iff_encode]
  decide

end Sys2Proof.Proofs
end

section
/-! PROOFS, family `40_engine_cycle`: what a cycle answers, where it leaves PC, and which events move the run state. -/

open Sys2Proof.Claims

namespace Sys2Proof.Machine

/-! ### A cycle of a Running engine -/

section Cycle

variable {s t : State}

/-- Entry on an error halts the engine as R96 says: nothing but the run state and the halt record changes. -/
theorem State.haltsAs_haltWith (s : State) (r : HaltReason) (w : Option Word) :
    s.HaltsAs (s.haltWith r s.pc w) r w :=
  ⟨rfl, rfl, rfl⟩

/-- A fetch fault halts the engine with no word (R88). -/
theorem cycle_of_fetch_eq_none (hrun : s.run = .running) (hfetch : s.fetch = none) :
    cycle s = .next (s.haltWith .outOfBoundsAccess s.pc none) := by
  unfold cycle State.runCycle
  simp only [hrun, hfetch]

/-- An unknown word halts the engine with that word (R90). -/
theorem cycle_of_unknown {w : Word} (hrun : s.run = .running) (hfetch : s.fetch = some w)
    (hunknown : ∀ i, decode s.cfg.profile w ≠ .ok i) : cycle s = .next (s.haltWith .unknownOpcode s.pc (some w)) := by
  unfold cycle State.runCycle State.executeWord
  simp only [hrun, hfetch, decode_eq_error hunknown]
  rfl

theorem fetches_iff {i : Instr} : Fetches s i ↔ ∃ w, s.fetch = some w ∧ decode s.cfg.profile w = .ok i := by
  simp only [Fetches, State.fetch_eq_some]
  constructor
  · rintro ⟨hpc, hdecode⟩
    exact ⟨_, ⟨hpc, rfl⟩, hdecode⟩
  · rintro ⟨_, ⟨hpc, rfl⟩, hdecode⟩
    exact ⟨hpc, hdecode⟩

/-- An instruction takes an error, which records its word, or leaves the run state and the halt record (R96). -/
theorem Effect.halts_or_keeps_run {i : Instr} (h : Effect s i t) :
    (∃ r, r ≠ .stopped ∧ r ≠ .romTooLarge ∧ s.HaltsAs t r (some (encode i))) ∨ (t.run = s.run ∧ t.halt = s.halt) := by
  cases h with
  | outOfBounds => exact .inl ⟨_, by decide, by decide, s.haltsAs_haltWith ..⟩
  | overflow => exact .inl ⟨_, by decide, by decide, s.haltsAs_haltWith ..⟩
  | underflow => exact .inl ⟨_, by decide, by decide, s.haltsAs_haltWith ..⟩
  | _ => exact .inr (by simp)

theorem Effect.schedule_eq {i : Instr} (h : Effect s i t) : t.schedule = s.schedule := by
  cases h <;> simp

/-- A cycle that answers a next state was of a Running engine. It takes an error, which records what was fetched, or
it leaves the engine Running with its halt record (R87, R95, R96). -/
theorem cycle_halts_or_completes (h : cycle s = .next t) :
    s.run = .running ∧
      ((∃ r, r ≠ .stopped ∧ r ≠ .romTooLarge ∧ s.HaltsAs t r s.fetch) ∨ (t.run = .running ∧ t.halt = s.halt)) := by
  obtain ⟨hrun, ⟨hfetch, rfl⟩ | ⟨w, hfetch, -, rfl⟩ | ⟨w, i, hfetch, hdecode, hexec⟩⟩ := cycle_cases h
  · rw [hfetch]
    exact ⟨hrun, .inl ⟨.outOfBoundsAccess, by decide, by decide, s.haltsAs_haltWith ..⟩⟩
  · rw [hfetch]
    exact ⟨hrun, .inl ⟨.unknownOpcode, by decide, by decide, s.haltsAs_haltWith ..⟩⟩
  · obtain ⟨rfl, -⟩ := decode_eq_ok_iff_encode.mp hdecode
    have houtcome := (effect_of_exec hexec).halts_or_keeps_run
    rw [hrun, ← hfetch] at houtcome
    exact ⟨hrun, houtcome⟩

/-- When a cycle is due, only a Running engine has a step (R95). -/
theorem running_of_step (hdue : s.CycleDue) (h : step s = .next t) : s.run = .running := by
  rw [step_of_cycleDue hdue] at h
  obtain ⟨hrun, -⟩ := cycle_cases h
  exact hrun

end Cycle

/-! ### PC after an instruction -/

section Pc

variable {s t : State}

theorem zeroExtend16_toNat (nnn : Addr) : (zeroExtend16 nnn).toNat = nnn.toNat :=
  BitVec.toNat_setWidth_of_le (by decide)

/-- The computed jump's sum is below 2^16, so it is not reduced (R137). -/
theorem jumpV0_target_toNat (nnn : Addr) (b : Byte) :
    (zeroExtend16 nnn + byteToWord b).toNat = nnn.toNat + b.toNat := by
  have hb : (byteToWord b).toNat = b.toNat := BitVec.toNat_setWidth_of_le (by decide)
  rw [BitVec.toNat_add, zeroExtend16_toNat, hb]
  omega

theorem State.exists_jumpOffset_eq_reg (s : State) (nnn : Addr) : ∃ r, s.jumpOffset nnn = s.reg r := by
  unfold State.jumpOffset
  split <;> exact ⟨_, rfl⟩

theorem pc_of_exec_jump {nnn : Addr} (h : exec (.jump nnn) s = .next t) : t.pc.toNat = nnn.toNat := by
  cases h
  exact zeroExtend16_toNat nnn

theorem pc_of_exec_jumpV0 {nnn : Addr} (h : exec (.jumpV0 nnn) s = .next t) :
    ∃ r, t.pc.toNat = nnn.toNat + (s.reg r).toNat := by
  cases h
  obtain ⟨r, hr⟩ := s.exists_jumpOffset_eq_reg nnn
  exact ⟨r, hr ▸ jumpV0_target_toNat nnn _⟩

theorem pc_of_exec_call {nnn : Addr} (h : exec (.call nnn) s = .next t) (hrun : t.run ≠ .halted) :
    t.pc.toNat = nnn.toNat := by
  rcases execCall_cases nnn s with ⟨-, he⟩ | ⟨-, he⟩ <;> cases he.symm.trans h
  · exact absurd rfl hrun
  · exact zeroExtend16_toNat nnn

theorem pc_of_exec_ret (h : exec .ret s = .next t) (hrun : t.run ≠ .halted) : s.stack.getLast? = some t.pc := by
  rcases execRet_cases s with ⟨-, he⟩ | ⟨a, hlast, he⟩ <;> cases he.symm.trans h
  · exact absurd rfl hrun
  · exact hlast

/-- An instruction that does not assign PC and takes no error advances it, skips, or holds (R92, R93, R97). -/
theorem Effect.pc_of_not_assignsPc {i : Instr} (h : Effect s i t) (hi : ¬ AssignsPc i) (hrun : t.run ≠ .halted) :
    t.pc = s.pc + 2#16 ∨ (IsSkip i ∧ t.pc = s.pc + 4#16) ∨ ∃ x, i = .waitKey x ∧ t = s := by
  cases h with
  | outOfBounds | overflow | underflow => exact absurd rfl hrun
  | jump | jumpV0 | call | ret => exact absurd trivial hi
  | hold x => exact .inr (.inr ⟨x, rfl, rfl⟩)
  | skip hskip c =>
    cases c with
    | false => exact .inl rfl
    | true => exact .inr (.inl ⟨hskip, BitVec.add_assoc ..⟩)
  | _ => exact .inl (by simp)

end Pc

/-! ### The run state under host actions -/

section RunState

variable {s t : State} {a : HostAction}

/-- The step of a state whose next event is a host action takes that action's effect (R218). -/
theorem step_host_effect {rest : List Event} (h : s.schedule = .host a :: rest) :
    ∃ t, step s = .next t ∧ HostEffect s.dequeue a t :=
  ⟨_, step_of_host h, s.dequeue.hostAct_effect a⟩

theorem HostEffect.run_of_loadRom {rom : List Byte} (h : HostEffect s (.loadRom rom) t) (hready : s.run = .ready)
    (hfits : rom.length ≤ maxRom) : t.run = .running := by
  cases h with
  | disabled ha => exact absurd hready ha
  | load => rfl
  | tooLarge _ hlong => exact absurd hfits (not_le.mpr hlong)

theorem HostEffect.eq_haltWith_of_loadRom {rom : List Byte} (h : HostEffect s (.loadRom rom) t)
    (hready : s.run = .ready) (hlong : maxRom < rom.length) :
    t = s.haltWith .romTooLarge (BitVec.ofNat 16 progBase) none := by
  cases h with
  | disabled ha => exact absurd hready ha
  | load _ hfits => exact absurd hfits (not_le.mpr hlong)
  | tooLarge => rfl

theorem HostEffect.eq_haltWith_of_stop (h : HostEffect s .stop t) (hrun : s.run ≠ .halted) :
    t = s.haltWith .stopped s.pc none := by
  cases h with
  | disabled ha => exact absurd hrun ha
  | stop => rfl

/-- Only LoadRom in Ready and Stop before Halted move the run state (R86). -/
theorem HostEffect.run_eq (h : HostEffect s a t) (hload : ∀ rom, s.run = .ready → a ≠ .loadRom rom)
    (hstop : s.run ≠ .halted → a ≠ .stop) : t.run = s.run := by
  cases h with
  | load hready | tooLarge hready => exact absurd rfl (hload _ hready)
  | stop hrun => exact absurd rfl (hstop hrun)
  | _ => rfl

/-- In Halted only Present has an effect, and only on the dirty bit (R101). -/
theorem HostEffect.of_halted (h : HostEffect s a t) (hrun : s.run = .halted) :
    t = s ∨ (a = .present ∧ t = { s with dirty := false }) := by
  cases h with
  | disabled => exact .inl rfl
  | load hready | tooLarge hready => exact absurd (hrun.symm.trans hready) (by decide)
  | stop hne | setKey _ _ hne => exact absurd hrun hne
  | tick hrunning => exact absurd (hrun.symm.trans hrunning) (by decide)
  | present => exact .inr ⟨rfl, rfl⟩

end RunState

end Sys2Proof.Machine

/-! ## The obligations -/

namespace Sys2Proof.Proofs

open Sys2Proof.Machine

/-- Settles O10: the value of a fetched word, and the cycle of an engine that cannot fetch one. -/
theorem fetchIsBigEndianUpToFFE : Obligations.FetchIsBigEndianUpToFFE := by
  unfold Obligations.FetchIsBigEndianUpToFFE
  intro s
  refine ⟨fun hpc => ?_, fun hpc => ?_⟩
  · exact ⟨_, State.fetch_eq_some.mpr ⟨by omega, rfl⟩, bigEndian_toNat _ _⟩
  · have hfetch : s.fetch = none := State.fetch_eq_none.mpr hpc
    refine ⟨hfetch, fun hdue hrun => ⟨_, ?_, s.dequeue.haltsAs_haltWith ..⟩⟩
    rw [step_of_cycleDue hdue]
    exact cycle_of_fetch_eq_none hrun hfetch

/-- Settles O11: the step is the cycle, which raises the error. -/
theorem unknownWordHaltsWithItsAddress : Obligations.UnknownWordHaltsWithItsAddress := by
  unfold Obligations.UnknownWordHaltsWithItsAddress
  intro s w hdue hrun hfetch hunknown
  refine ⟨_, ?_, s.dequeue.haltsAs_haltWith ..⟩
  rw [step_of_cycleDue hdue]
  exact cycle_of_unknown hrun hfetch hunknown

/-- Settles O13: an error records what was fetched, which is nothing exactly where no word can be fetched. -/
theorem errorsDiscardTheCycle : Obligations.ErrorsDiscardTheCycle := by
  unfold Obligations.ErrorsDiscardTheCycle
  intro s t hdue hstep
  rw [step_of_cycleDue hdue] at hstep
  obtain ⟨-, ⟨r, hstopped, hlarge, hhalts⟩ | ⟨hrun, hhalt⟩⟩ := cycle_halts_or_completes hstep
  · exact ⟨fun _ => ⟨r, s.fetch, hstopped, hlarge, hhalts, State.fetch_eq_none, fun _ => rfl⟩,
      fun hne => absurd hhalts.1 hne⟩
  · exact ⟨fun hhalted => absurd (hrun.symm.trans hhalted) (by decide), fun _ => ⟨hrun, hhalt⟩⟩

/-- Settles O16: the four transfers of control by their own meanings, every other instruction by its effect. -/
theorem pcAfterCompletion : Obligations.PcAfterCompletion := by
  unfold Obligations.PcAfterCompletion
  intro i s t _ hexec hrun
  have hne : t.run ≠ .halted := by simp [hrun]
  refine ⟨?_, ?_, ?_, ?_, fun hi => (effect_of_exec hexec).pc_of_not_assignsPc hi hne⟩
  · rintro nnn rfl
    exact pc_of_exec_jump hexec
  · rintro nnn rfl
    exact pc_of_exec_call hexec hne
  · rintro rfl
    exact pc_of_exec_ret hexec hne
  · rintro nnn rfl
    exact pc_of_exec_jumpV0 hexec

/-- Settles O17: every instruction answers one of its effects, and none writes what a host action writes. -/
theorem everyInstructionAnswersANextState : Obligations.EveryInstructionAnswersANextState := by
  unfold Obligations.EveryInstructionAnswersANextState
  intro i s
  obtain ⟨t, hexec, heffect⟩ := exec_effect i s
  refine ⟨t, hexec, heffect.cfg_eq, heffect.schedule_eq, heffect.key_eq, ?_⟩
  rcases heffect.halts_or_keeps_run with ⟨_, _, _, hhalted, _⟩ | ⟨hrun, _⟩
  · exact .inr hhalted
  · exact .inl hrun

/-- Settles O25: a cycle needs a Running engine, and of the host actions only Present acts. -/
theorem haltedIsTerminal : Obligations.HaltedIsTerminal := by
  unfold Obligations.HaltedIsTerminal
  intro s t hrun hstep
  rcases s.due_cases with hdue | ⟨a, rest, hdue⟩
  · exact absurd (hrun.symm.trans (running_of_step hdue hstep)) (by decide)
  · obtain ⟨u, hu, heffect⟩ := step_host_effect hdue
    obtain rfl : u = t := Host.Outcome.next.inj (hu.symm.trans hstep)
    rcases heffect.of_halted hrun with rfl | ⟨rfl, rfl⟩
    · exact ⟨hrun, rfl, rfl, fun hne => absurd rfl hne⟩
    · exact ⟨hrun, rfl, rfl, fun _ => ⟨rest, hdue⟩⟩

/-- Settles O26: the Ready rows by the effect of the host action, the Running row by what a cycle answers. -/
theorem runStateTransitions : Obligations.RunStateTransitions := by
  unfold Obligations.RunStateTransitions
  refine ⟨fun _ _ => rfl, fun s a rest hdue => ?_, fun s t hdue hstep => ?_⟩
  · obtain ⟨t, hstep, heffect⟩ := step_host_effect hdue
    refine ⟨t, hstep, ?_, ?_, ?_, heffect.run_eq⟩
    · rintro rom hready rfl hfits
      exact heffect.run_of_loadRom hready hfits
    · rintro rom hready rfl hlong
      obtain rfl := heffect.eq_haltWith_of_loadRom hready hlong
      exact ⟨rfl, _, rfl⟩
    · rintro hrun rfl
      obtain rfl := heffect.eq_haltWith_of_stop hrun
      exact ⟨rfl, _, rfl⟩
  · rw [step_of_cycleDue hdue] at hstep
    obtain ⟨hrun, ⟨r, hstopped, -, hhalted, hhalt, -⟩ | ⟨hrunning, -⟩⟩ := cycle_halts_or_completes hstep
    · exact ⟨hrun, .inr ⟨hhalted, _, hhalt, hstopped⟩⟩
    · exact ⟨hrun, .inl hrunning⟩

/-- Settles O9: the step is the cycle of the dequeued state, which runs what it fetches. -/
theorem stepRunsTheDecodedInstruction : Obligations.StepRunsTheDecodedInstruction := by
  unfold Obligations.StepRunsTheDecodedInstruction
  intro s i hdue hrun hfetches
  obtain ⟨w, hfetch, hdecode⟩ := fetches_iff.mp hfetches
  refine ⟨?_, State.dequeue_of_empty⟩
  rw [step_of_cycleDue hdue]
  exact cycle_of_decode (s := s.dequeue) hrun hfetch hdecode

/-- Settles O12: a cycle that answers a next state was of a Running engine. -/
theorem noCycleUnlessRunning : Obligations.NoCycleUnlessRunning := by
  unfold Obligations.NoCycleUnlessRunning
  intro s hdue hrun t hstep
  have hrunning := running_of_step hdue hstep
  rcases hrun with hready | hhalted
  · exact absurd (hready.symm.trans hrunning) (by decide)
  · exact absurd (hhalted.symm.trans hrunning) (by decide)

/-- Settles O30: the effect of an enabled Stop. -/
theorem stopHaltsAndRecordsPc : Obligations.StopHaltsAndRecordsPc := by
  unfold Obligations.StopHaltsAndRecordsPc
  intro s rest hdue hrun
  obtain ⟨t, hstep, heffect⟩ := step_host_effect hdue
  obtain rfl := heffect.eq_haltWith_of_stop hrun
  exact ⟨_, hstep, s.dequeue.haltsAs_haltWith ..⟩

/-- Settles O59: WAITKEY completes only with a key that is down. -/
theorem waitKeyHoldsUntilAKeyIsDown : Obligations.WaitKeyHoldsUntilAKeyIsDown := by
  unfold Obligations.WaitKeyHoldsUntilAKeyIsDown
  intro x s hup
  rcases execWaitKey_cases x s with ⟨-, hhold⟩ | ⟨k, hdown, -⟩
  · exact hhold
  · exact absurd ((hup k).symm.trans hdown) (by decide)

end Sys2Proof.Proofs
end

section
/-! PROOFS, family `41_documented_ops`: the frame rule of each state operation, and what DRAW does, pixel by pixel. -/

open Sys2Proof.Claims

namespace Sys2Proof.Machine

/-! ### Frames

One rule per state operation: what may change in `t` against `s` already, and what the operation adds to it. A frame
for a chain of operations is the chain of their rules, from `State.changesOnly_refl` on. -/

section Frames

variable {s t : State} {may : Part → Prop}

theorem State.changesOnly_refl (s : State) (may : Part → Prop) : s.ChangesOnly s may := by
  simp [State.ChangesOnly]

/-- PC is no part that a frame names, so its two writers need no permission. -/
theorem State.ChangesOnly.advance (h : s.ChangesOnly t may) : s.ChangesOnly t.advance may := h

theorem State.ChangesOnly.jumpTo (h : s.ChangesOnly t may) (a : Word) : s.ChangesOnly (t.jumpTo a) may := h

theorem State.ChangesOnly.setReg (h : s.ChangesOnly t may) {x : Nibble} (b : Byte) (hx : may (.reg x)) :
    s.ChangesOnly (t.setReg x b) may := by
  obtain ⟨hreg, hrest⟩ := h
  refine ⟨fun r hr => ?_, hrest⟩
  have hne : r ≠ x := by
    rintro rfl
    exact hr hx
  rw [t.setReg_reg_ne b hne, hreg r hr]

theorem State.ChangesOnly.setIndex (h : s.ChangesOnly t may) (a : Word) (hi : may .index) :
    s.ChangesOnly (t.setIndex a) may := by
  obtain ⟨hreg, -, hrest⟩ := h
  exact ⟨hreg, fun hn => absurd hi hn, hrest⟩

/-- The new display is compared with that of `s`, pixel by pixel. -/
theorem State.ChangesOnly.setDisplay (h : s.ChangesOnly t may) {d : Display} (hdirty : may .dirty)
    (hpixel : ∀ x y, ¬ may (.pixel x y) → d.pixel x y = s.disp.pixel x y) : s.ChangesOnly (t.setDisplay d) may := by
  obtain ⟨hreg, hindex, hstack, hmem, -, -, hrest⟩ := h
  exact ⟨hreg, hindex, hstack, hmem, hpixel, fun hn => absurd hdirty hn, hrest⟩

/-! What a frame says of one part. -/

theorem State.ChangesOnly.reg_eq (h : s.ChangesOnly t may) {r : Nibble} (hr : ¬ may (.reg r)) : t.reg r = s.reg r := by
  obtain ⟨hreg, -⟩ := h
  exact hreg r hr

theorem State.ChangesOnly.i_eq (h : s.ChangesOnly t may) (hi : ¬ may .index) : t.i = s.i := by
  obtain ⟨-, hindex, -⟩ := h
  exact hindex hi

theorem State.ChangesOnly.read_eq (h : s.ChangesOnly t may) {a : Nat} (ha : ¬ may (.byte a)) :
    t.mem.read a = s.mem.read a := by
  obtain ⟨-, -, -, hmem, -⟩ := h
  exact hmem a ha

/-- No frame lets the run state, the halt record or the configuration change. -/
theorem State.ChangesOnly.run_halt_cfg_eq (h : s.ChangesOnly t may) :
    t.run = s.run ∧ t.halt = s.halt ∧ t.cfg = s.cfg := by
  obtain ⟨-, -, -, -, -, -, -, -, -, -, hrun, hhalt, hcfg, -⟩ := h
  exact ⟨hrun, hhalt, hcfg⟩

end Frames

/-! ### DRAW: the bounds, the origin and the sprite bits -/

/-- Every sprite address lies in memory when the last one does (R117). -/
theorem spriteInBounds_iff_forall {s : State} {n : Nibble} :
    SpriteInBounds s n ↔ ∀ r, r < n.toNat → s.i.toNat + r ≤ 0xFFF := by
  unfold SpriteInBounds
  constructor
  · intro h r hr
    omega
  · intro h
    by_cases hn : n.toNat = 0
    · exact .inl hn
    · have hlast := h (n.toNat - 1) (by omega)
      exact .inr (by omega)

theorem spanInBounds_iff_spriteInBounds {s : State} {n : Nibble} :
    s.spanInBounds n.toNat = true ↔ SpriteInBounds s n := by
  rw [s.spanInBounds_iff, SpriteInBounds, memSize]
  omega

/-- The value DRAW reads a coordinate from: VF reads as 0 once it is reset (R118). -/
theorem State.drawOperand_toNat (s : State) (x : Nibble) : (s.drawOperand x).toNat = drawValue s x := by
  unfold State.drawOperand drawValue
  cases s.cfg.drawVfOrder with
  | operandsFirst => simp
  | vfFirst =>
    rw [State.reg_setReg, flagReg]
    by_cases hx : x = 0xF#4 <;> simp [hx]

/-- The bit that DRAW VX, VY, N puts over the display cell (p, q). -/
abbrev State.drawnBit (s : State) (x y n : Nibble) (p q : Nat) : Bool :=
  spriteOn s (drawValue s x % 64) (drawValue s y % 32) n.toNat p q

/-- The bits of the rows that DRAW reads, clipped to the grid, are the sprite's (R119-R121). -/
theorem clipped_spriteBitAt (s : State) (ox oy n p q : Nat) :
    (decide (p < 64) && decide (q < 32) && spriteBitAt ox oy (s.mem.readSpan s.base n) p q) = spriteOn s ox oy n p q := by
  rw [spriteBitAt, rowBitAt_rowBits, Memory.readSpan_length, spriteOn]
  by_cases hrow : oy ≤ q ∧ q < oy + n
  · have hbyte : (s.mem.readSpan s.base n).getD (q - oy) 0#8 = s.mem.read (s.i.toNat + (q - oy)) := by
      have hk : q - oy < (s.mem.readSpan s.base n).length := by
        rw [Memory.readSpan_length]
        omega
      rw [List.getD_eq_getElem _ _ hk, Memory.readSpan_getElem, State.base]
    rw [hbyte, Bool.eq_iff_iff]
    simp only [Bool.and_eq_true, decide_eq_true_eq]
    tauto
  · rw [Bool.eq_iff_iff]
    simp only [Bool.and_eq_true, decide_eq_true_eq]
    tauto

/-- A drawn bit of DRAW VX, VY, N meets a pixel that is on (R122). -/
def State.DrawCollides (s : State) (x y n : Nibble) : Prop :=
  ∃ p q, p < 64 ∧ q < 32 ∧ s.disp.pixel p q = true ∧ s.drawnBit x y n p q = true

/-! ### DRAW: what it does -/

/-- `t` is `s` after DRAW VX, VY, N: the sprite XORed into the display, the collision in VF, the display dirty, and
PC advanced (R116, R122, R123). -/
structure DrawsSprite (s t : State) (x y n : Nibble) : Prop where
  pixel : ∀ p q, t.disp.pixel p q = (s.disp.pixel p q ^^ s.drawnBit x y n p q)
  vf_of_collision : s.DrawCollides x y n → t.reg 0xF#4 = 1#8
  vf_of_no_collision : ¬ s.DrawCollides x y n → t.reg 0xF#4 = 0#8
  dirty : t.dirty = true
  pc : t.pc = s.pc + 2#16
  frame : s.ChangesOnly t
    (fun part => part = .reg 0xF#4 ∨ part = .dirty ∨ ∃ a b, part = .pixel a b ∧ s.drawnBit x y n a b = true)

/-- The display and the collision that DRAW computes. -/
def State.drawn (s : State) (x y n : Nibble) : Display × Bool :=
  drawRows (s.originX x) (s.originY y) (s.mem.readSpan s.base n.toNat) (s.disp, false)

theorem State.drawn_pixel (s : State) (x y n : Nibble) (p q : Nat) :
    (s.drawn x y n).1.pixel p q = (s.disp.pixel p q ^^ s.drawnBit x y n p q) := by
  rw [State.drawn, drawRows_pixel, clipped_spriteBitAt, State.originX, State.originY, s.drawOperand_toNat,
    s.drawOperand_toNat]

theorem State.drawn_collision (s : State) (x y n : Nibble) : (s.drawn x y n).2 = true ↔ s.DrawCollides x y n := by
  rw [State.drawn, drawRows_collision, State.originX, State.originY, s.drawOperand_toNat, s.drawOperand_toNat]
  simp only [State.DrawCollides, State.drawnBit, ← clipped_spriteBitAt, Bool.and_eq_true, decide_eq_true_eq,
    Bool.false_eq_true, false_or]
  refine exists_congr fun p => exists_congr fun q => ?_
  tauto

theorem exec_draw_of_inBounds {s : State} {n : Nibble} (x y : Nibble) (h : SpriteInBounds s n) :
    exec (.draw x y n) s =
      .next ((s.advance.setReg flagReg (flagByte (s.drawn x y n).2)).setDisplay (s.drawn x y n).1) :=
  if_pos (spanInBounds_iff_spriteInBounds.mpr h)

/-- DRAW completes when its sprite lies in memory. -/
theorem exec_draw_drawsSprite {s : State} {n : Nibble} (x y : Nibble) (h : SpriteInBounds s n) :
    ∃ t, exec (.draw x y n) s = .next t ∧ DrawsSprite s t x y n := by
  refine ⟨_, exec_draw_of_inBounds x y h, s.drawn_pixel x y n, fun hc => ?_, fun hc => ?_, rfl, rfl, ?_⟩
  · rw [State.setDisplay_reg, (s.drawn_collision x y n).mpr hc]
    exact State.setReg_reg_self ..
  · rw [State.setDisplay_reg, Bool.eq_false_iff.mpr (mt (s.drawn_collision x y n).mp hc)]
    exact State.setReg_reg_self ..
  · refine ((s.changesOnly_refl _).advance.setReg _ (.inl rfl)).setDisplay (.inr (.inl rfl)) fun a b hab => ?_
    have hoff : s.drawnBit x y n a b = false :=
      Bool.eq_false_iff.mpr fun hon => hab (.inr (.inr ⟨a, b, rfl, hon⟩))
    rw [s.drawn_pixel, hoff, Bool.xor_false]

/-- DRAW raises OutOfBoundsAccess, before any effect, when its sprite leaves memory (R117). -/
theorem exec_draw_halts {s : State} {n : Nibble} (x y : Nibble) (h : ¬ SpriteInBounds s n) :
    ∃ t, exec (.draw x y n) s = .next t ∧ s.HaltsAs t .outOfBoundsAccess (some (encode (.draw x y n))) :=
  ⟨_, if_neg (mt spanInBounds_iff_spriteInBounds.mp h), s.haltsAs_haltWith ..⟩

/-! ### DRAW twice -/

section Twice

variable {s t u : State} {x y n : Nibble}

/-- DRAW leaves I alone, so the sprite stays in memory. -/
theorem DrawsSprite.spriteInBounds (h : DrawsSprite s t x y n) (hs : SpriteInBounds s n) : SpriteInBounds t n := by
  unfold SpriteInBounds
  rwa [h.frame.i_eq (by simp)]

/-- A coordinate reads the same after DRAW unless it is VF and is read before the reset (R118). -/
theorem DrawsSprite.drawValue_eq (h : DrawsSprite s t x y n) {r : Nibble}
    (hr : s.cfg.drawVfOrder = .vfFirst ∨ r ≠ 0xF#4) : drawValue t r = drawValue s r := by
  obtain ⟨-, -, hcfg⟩ := h.frame.run_halt_cfg_eq
  unfold drawValue
  rw [hcfg]
  by_cases hvf : r = 0xF#4
  · have hreset : s.cfg.drawVfOrder = .vfFirst ∧ r = 0xF#4 := ⟨hr.resolve_right (not_not_intro hvf), hvf⟩
    rw [if_pos hreset, if_pos hreset]
  · rw [h.frame.reg_eq (by simp [hvf])]

/-- From the same origin DRAW puts the same bits over the same cells: it writes neither I nor memory. -/
theorem DrawsSprite.drawnBit_eq (h : DrawsSprite s t x y n) (ho : SameOrigin s t x y) (p q : Nat) :
    t.drawnBit x y n p q = s.drawnBit x y n p q := by
  obtain ⟨hx, hy⟩ := ho
  simp only [State.drawnBit, spriteOn, hx, hy]
  rw [h.frame.i_eq (by simp), h.frame.read_eq (by simp)]

/-- XOR with the same bits twice is no change (R124). -/
theorem DrawsSprite.disp_restored (h : DrawsSprite s t x y n) (h' : DrawsSprite t u x y n)
    (ho : SameOrigin s t x y) : u.disp = s.disp := by
  refine Display.ext fun p q _ _ => ?_
  rw [h'.pixel, h.pixel, h.drawnBit_eq ho, Bool.xor_assoc, Bool.xor_self, Bool.xor_false]

/-- The second DRAW collides where the first turned a pixel on. -/
theorem DrawsSprite.collides_again_iff (h : DrawsSprite s t x y n) (ho : SameOrigin s t x y) :
    t.DrawCollides x y n ↔
      ∃ p q, p < 64 ∧ q < 32 ∧ s.disp.pixel p q = false ∧ s.drawnBit x y n p q = true := by
  unfold State.DrawCollides
  refine exists_congr fun p => exists_congr fun q => and_congr_right fun _ => and_congr_right fun _ => ?_
  rw [h.drawnBit_eq ho, h.pixel]
  refine and_congr_left fun hon => ?_
  rw [hon, Bool.xor_true, Bool.not_eq_true']

theorem DrawsSprite.vf_eq_one_iff (h : DrawsSprite s t x y n) : t.reg 0xF#4 = 1#8 ↔ s.DrawCollides x y n := by
  refine ⟨fun hvf => ?_, h.vf_of_collision⟩
  by_contra hc
  exact absurd (hvf.symm.trans (h.vf_of_no_collision hc)) (by decide)

end Twice

end Sys2Proof.Machine

/-! ## The obligations -/

namespace Sys2Proof.Proofs

open Sys2Proof.Machine

/-- Settles O38: DRAW either completes with the sprite drawn or halts, as its bounds say. -/
theorem drawXorsSpriteAndReportsCollision : Obligations.DrawXorsSpriteAndReportsCollision := by
  unfold Obligations.DrawXorsSpriteAndReportsCollision
  refine ⟨encodedAs_xyn .draw 0xD, fun x y n s => ⟨exec_draw_halts x y, fun hs => ?_⟩⟩
  obtain ⟨t, hexec, h⟩ := exec_draw_drawsSprite x y hs
  exact ⟨t, hexec, fun p q _ _ => h.pixel p q, h.vf_of_collision, h.vf_of_no_collision, h.dirty, h.pc, h.frame⟩

/-- Settles O39: the bounds of the sprite are those of each of its addresses. -/
theorem drawChecksAllRowsFirst : Obligations.DrawChecksAllRowsFirst := by
  unfold Obligations.DrawChecksAllRowsFirst
  intro x y n s
  constructor
  · rintro ⟨r, hr, hout⟩
    exact exec_draw_halts x y fun hs => absurd (spriteInBounds_iff_forall.mp hs r hr) (not_le.mpr hout)
  · intro hin
    obtain ⟨t, hexec, h⟩ := exec_draw_drawsSprite x y (spriteInBounds_iff_forall.mpr hin)
    obtain ⟨hrun, hhalt, -⟩ := h.frame.run_halt_cfg_eq
    exact ⟨t, hexec, hrun, hhalt⟩

/-- Settles O40: the second DRAW puts the bits of the first over the display that the first left. -/
theorem drawingTwiceRestoresTheDisplay : Obligations.DrawingTwiceRestoresTheDisplay := by
  unfold Obligations.DrawingTwiceRestoresTheDisplay
  intro x y n s hs
  obtain ⟨t, hexec, h⟩ := exec_draw_drawsSprite x y hs
  obtain ⟨u, hexec', h'⟩ := exec_draw_drawsSprite x y (h.spriteInBounds hs)
  refine ⟨t, u, hexec, hexec', fun hvf => ?_, fun ho => ⟨h.disp_restored h' ho, ?_⟩⟩
  · have hx := h.drawValue_eq (hvf.imp_right And.left)
    have hy := h.drawValue_eq (hvf.imp_right And.right)
    exact ⟨by rw [hx], by rw [hy]⟩
  · exact h'.vf_eq_one_iff.trans (h.collides_again_iff ho)

/-- Settles O33: the blank display is off at every pixel. -/
theorem clearTurnsEveryPixelOff : Obligations.ClearTurnsEveryPixelOff := by
  unfold Obligations.ClearTurnsEveryPixelOff
  refine ⟨encodedAs_whole .clear, fun s => ⟨_, rfl, Display.pixel_blank, rfl, rfl, ?_⟩⟩
  exact (s.changesOnly_refl _).advance.setDisplay (.inl rfl) fun x y h => absurd (.inr ⟨x, y, rfl⟩) h

/-- Settles O34: zero extension keeps NNN, and only PC is written. -/
theorem jumpSetsPcExactly : Obligations.JumpSetsPcExactly := by
  unfold Obligations.JumpSetsPcExactly
  exact ⟨encodedAs_nnn .jump 0x1, fun nnn s =>
    ⟨_, rfl, zeroExtend16_toNat nnn, (s.changesOnly_refl _).advance.jumpTo _⟩⟩

/-- Settles O35: one register write, whichever register it is. -/
theorem setImmediateWritesRegister : Obligations.SetImmediateWritesRegister := by
  unfold Obligations.SetImmediateWritesRegister
  exact ⟨encodedAs_xnn .setImm 0x6, fun x nn s =>
    ⟨_, rfl, s.advance.setReg_reg_self x nn, rfl, (s.changesOnly_refl _).advance.setReg nn rfl⟩⟩

/-- Settles O36: one register write of a sum of bytes; VF is another register unless X is F. -/
theorem addImmediateWrapsAndLeavesVf : Obligations.AddImmediateWrapsAndLeavesVf := by
  unfold Obligations.AddImmediateWrapsAndLeavesVf
  refine ⟨encodedAs_xnn .addImm 0x7, fun x nn s =>
    ⟨_, rfl, ?_, fun hx => ?_, rfl, (s.changesOnly_refl _).advance.setReg _ rfl⟩⟩
  · rw [State.setReg_reg_self, BitVec.toNat_add]
  · exact s.advance.setReg_reg_ne _ (Ne.symm hx)

/-- Settles O37: zero extension keeps NNN, and no address is checked. -/
theorem setIndexWritesAddress : Obligations.SetIndexWritesAddress := by
  unfold Obligations.SetIndexWritesAddress
  exact ⟨encodedAs_nnn .setI 0xA, fun nnn s =>
    ⟨_, rfl, zeroExtend16_toNat nnn, rfl, (s.changesOnly_refl _).advance.setIndex _ rfl⟩⟩

end Sys2Proof.Proofs
end

section
/-! PROOFS, family `42_control_flow`: the stack of RETURN and CALL, the conditional skips, and the computed jump. -/

open Sys2Proof.Claims

namespace Sys2Proof.Machine

/-! ### Frames -/

section Frames

variable {s t : State} {may : Part → Prop}

/-- A skip writes PC only, as the advance does. -/
theorem State.ChangesOnly.skipIf (h : s.ChangesOnly t may) (c : Bool) : s.ChangesOnly (t.skipIf c) may := by
  cases c with
  | false => exact h
  | true => exact h.advance

/-- The frame of `Push` and of `Pop`, which write the stack and nothing else (R30). -/
theorem State.ChangesOnly.withStack (h : s.ChangesOnly t may) (l : List Word) (hstack : may .stack) :
    s.ChangesOnly { t with stack := l } may := by
  obtain ⟨hreg, hindex, -, hrest⟩ := h
  exact ⟨hreg, hindex, fun hn => absurd hstack hn, hrest⟩

/-- The frame of CALL and of RETURN, which move PC too. -/
theorem State.changesOnly_stack (s : State) (a : Word) (l : List Word) :
    s.ChangesOnly { s with pc := a, stack := l } (fun p => p = .stack) :=
  ((s.changesOnly_refl fun p => p = .stack).withStack l rfl).jumpTo a

end Frames

/-! ### RETURN and CALL -/

section Stack

variable {s : State}

theorem exec_ret_of_nonempty {rest : List Word} {a : Word} (h : s.stack = rest ++ [a]) :
    exec .ret s = .next { s with pc := a, stack := rest } := by
  rcases execRet_cases s with ⟨hempty, -⟩ | ⟨b, hlast, he⟩
  · exact absurd (h.symm.trans hempty) (List.concat_ne_nil a rest)
  · rw [h, List.getLast?_concat, Option.some.injEq] at hlast
    rw [h, List.dropLast_concat, ← hlast] at he
    exact he

theorem exec_ret_of_empty (h : s.stack = []) : exec .ret s = s.raise .stackUnderflow (encode .ret) := by
  rcases execRet_cases s with ⟨-, he⟩ | ⟨b, hlast, -⟩
  · exact he
  · exact absurd (hlast.symm.trans (List.getLast?_eq_none_iff.mpr h)) (Option.some_ne_none b)

theorem exec_call_of_room (nnn : Addr) (h : s.stack.length ≠ s.cfg.stackDepth) :
    exec (.call nnn) s = .next { s with pc := zeroExtend16 nnn, stack := s.stack ++ [s.pc + 2#16] } := by
  rcases execCall_cases nnn s with ⟨hfull, -⟩ | ⟨-, he⟩
  · exact absurd hfull h
  · exact he

theorem exec_call_of_full (nnn : Addr) (h : s.stack.length = s.cfg.stackDepth) :
    exec (.call nnn) s = s.raise .stackOverflow (encode (.call nnn)) := by
  rcases execCall_cases nnn s with ⟨-, he⟩ | ⟨hroom, -⟩
  · exact he
  · exact absurd h hroom

end Stack

/-! ### Skips -/

/-- A skip on top of the advance moves PC by 4 or by 2, as its condition says (R93). -/
theorem skipsWhen_skipIf (s : State) (taken : Prop) [Decidable taken] :
    SkipsWhen s (s.advance.skipIf (decide taken)) taken := by
  refine ⟨fun h => ?_, fun h => ?_, (s.changesOnly_refl _).advance.skipIf _⟩
  · rw [decide_eq_true h]
    exact BitVec.add_assoc ..
  · rw [decide_eq_false h]
    rfl

/-! ### The register of the computed jump -/

theorem State.jumpOffset_of_v0 {s : State} (h : s.cfg.jumpOffset = .v0) (nnn : Addr) :
    s.jumpOffset nnn = s.reg 0x0#4 := by
  rw [State.jumpOffset, h]

/-- The register is X = NNN[11:8], the quotient of NNN by 256 (R137). -/
theorem State.jumpOffset_of_vx {s : State} (h : s.cfg.jumpOffset = .vx) (nnn : Addr) :
    s.jumpOffset nnn = s.reg (BitVec.ofNat 4 (nnn.toNat / 256)) := by
  have hx : nnn.extractLsb' 8 4 = BitVec.ofNat 4 (nnn.toNat / 256) :=
    congrArg (BitVec.ofNat 4) (Nat.shiftRight_eq_div_pow nnn.toNat 8)
  rw [State.jumpOffset, h, ← hx]

end Sys2Proof.Machine

/-! ## The obligations -/

namespace Sys2Proof.Proofs

open Sys2Proof.Machine

/-- Settles O41: the stack is empty or ends in the address that `Pop` takes off. -/
theorem returnPopsThePc : Obligations.ReturnPopsThePc := by
  unfold Obligations.ReturnPopsThePc
  refine ⟨encodedAs_whole .ret, fun s => ⟨fun rest a h => ?_, fun h => ?_⟩⟩
  · exact ⟨_, exec_ret_of_nonempty h, rfl, rfl, s.changesOnly_stack a rest⟩
  · exact ⟨_, exec_ret_of_empty h, s.haltsAs_haltWith ..⟩

/-- Settles O42: what is pushed is the advanced PC, and zero extension keeps NNN. -/
theorem callPushesTheReturnAddress : Obligations.CallPushesTheReturnAddress := by
  unfold Obligations.CallPushesTheReturnAddress
  refine ⟨encodedAs_nnn .call 0x2, fun nnn s => ⟨fun h => ?_, fun h => ?_⟩⟩
  · exact ⟨_, exec_call_of_room nnn h, zeroExtend16_toNat nnn, rfl, s.changesOnly_stack _ _⟩
  · exact ⟨_, exec_call_of_full nnn h, s.haltsAs_haltWith ..⟩

/-- Settles O43: each is a skip on its own comparison. -/
theorem immediateSkipsCompare : Obligations.ImmediateSkipsCompare := by
  unfold Obligations.ImmediateSkipsCompare
  exact ⟨encodedAs_xnn .skipEqImm 0x3, encodedAs_xnn .skipNeImm 0x4, fun x nn s =>
    ⟨⟨_, rfl, skipsWhen_skipIf s (s.reg x = nn)⟩, ⟨_, rfl, skipsWhen_skipIf s (s.reg x ≠ nn)⟩⟩⟩

/-- Settles O44: the same for two registers; N other than 0 is among the unassigned words of O7. -/
theorem registerSkipsCompare : Obligations.RegisterSkipsCompare := by
  unfold Obligations.RegisterSkipsCompare
  refine ⟨encodedAs_xy .skipEqReg 0x5 0x0, encodedAs_xy .skipNeReg 0x9 0x0, fun w hf hn => ?_, fun x y s => ?_⟩
  · exact unassignedSubOpcodesAreUnknown .standard w (.inl ⟨hf, hn⟩)
  · exact ⟨⟨_, rfl, skipsWhen_skipIf s (s.reg x = s.reg y)⟩, ⟨_, rfl, skipsWhen_skipIf s (s.reg x ≠ s.reg y)⟩⟩

/-- Settles O45: the sum of NNN and a byte fits in PC, and JUMP_OFFSET selects the register. -/
theorem computedJumpAddsTheOffsetRegister : Obligations.ComputedJumpAddsTheOffsetRegister := by
  unfold Obligations.ComputedJumpAddsTheOffsetRegister
  refine ⟨encodedAs_nnn .jumpV0 0xB, fun nnn s =>
    ⟨_, rfl, fun h => ?_, fun h => ?_, (s.changesOnly_refl _).advance.jumpTo _⟩⟩
  · rw [← State.jumpOffset_of_v0 h nnn]
    exact jumpV0_target_toNat nnn _
  · rw [← State.jumpOffset_of_vx h nnn]
    exact jumpV0_target_toNat nnn _

end Sys2Proof.Proofs
end

section
/-! PROOFS, family `43_alu`: the flags as numbers, the write of a result and its flag, and the shifted register. -/

open Sys2Proof.Claims

namespace Sys2Proof.Machine

/-! ### The flags -/

@[simp] theorem flagByte_true : flagByte true = 1#8 := rfl

@[simp] theorem flagByte_false : flagByte false = 0#8 := rfl

/-- The sum of two bytes is below 512, so what leaves bit 7 is one bit (R156). -/
theorem carryOut_toNat (a b : Byte) : (carryOut a b).toNat = (a.toNat + b.toNat) / 256 := by
  have ha := a.isLt
  have hb := b.isLt
  by_cases h : a.toNat + b.toNat > 255
  · rw [carryOut, decide_eq_true h, flagByte_true, BitVec.toNat_ofNat]
    omega
  · rw [carryOut, decide_eq_false h, flagByte_false, BitVec.toNat_ofNat]
    omega

theorem notBorrow_of_le {a b : Byte} (h : b.toNat ≤ a.toNat) : notBorrow a b = 1#8 := by
  rw [notBorrow, decide_eq_true h, flagByte_true]

theorem notBorrow_of_lt {a b : Byte} (h : a.toNat < b.toNat) : notBorrow a b = 0#8 := by
  rw [notBorrow, decide_eq_false (not_le.mpr h), flagByte_false]

theorem shiftedOutRight_toNat (src : Byte) : (shiftedOutRight src).toNat = src.toNat % 2 :=
  (BitVec.toNat_and ..).trans (Nat.and_one_is_mod _)

theorem shiftedOutLeft_toNat (src : Byte) : (shiftedOutLeft src).toNat = src.toNat / 128 :=
  (BitVec.toNat_ushiftRight ..).trans (Nat.shiftRight_eq_div_pow _ 7)

/-! ### The results -/

/-- The difference mod 256, with 256 added first so that it is one of natural numbers (R157, R159). -/
theorem byte_sub_toNat (a b : Byte) : (a - b).toNat = (a.toNat + 256 - b.toNat) % 256 := by
  have hb := b.isLt
  rw [BitVec.toNat_sub]
  omega

theorem byte_shiftRight_one_toNat (src : Byte) : (src >>> 1).toNat = src.toNat / 2 :=
  (BitVec.toNat_ushiftRight ..).trans (Nat.shiftRight_eq_div_pow _ 1)

theorem byte_shiftLeft_one_toNat (src : Byte) : (src <<< 1).toNat = src.toNat * 2 % 256 := by
  rw [BitVec.toNat_shiftLeft, Nat.shiftLeft_eq]

/-! ### A result and its flag -/

section ResultFlag

variable (s : State) (x : Nibble) (r f : Byte)

/-- The flag comes last, so VF holds it for every destination, F included (R151). -/
theorem State.setResultFlag_reg_flag : (s.setResultFlag x r f).reg 0xF#4 = f :=
  (s.setReg x r).setReg_reg_self flagReg f

variable {x} in
theorem State.setResultFlag_reg_result (hx : x ≠ 0xF#4) : (s.setResultFlag x r f).reg x = r :=
  ((s.setReg x r).setReg_reg_ne f hx).trans (s.setReg_reg_self x r)

/-- The frame of every instruction that writes a result and a flag. -/
theorem State.changesOnly_setResultFlag :
    s.ChangesOnly (s.advance.setResultFlag x r f) (fun p => p = .reg x ∨ p = .reg 0xF#4) :=
  ((s.changesOnly_refl _).advance.setReg r (.inl rfl)).setReg f (.inr rfl)

end ResultFlag

/-! ### The two values of `LOGIC_VF_RESET` -/

theorem State.setLogic_of_no_reset {s : State} (h : s.cfg.logicVfReset = false) (x : Nibble) (r : Byte) :
    s.setLogic x r = s.setReg x r := by
  rw [State.setLogic, if_neg (Bool.eq_false_iff.mp h)]

/-- The reset is a flag of 0 after the result. -/
theorem State.setLogic_of_reset {s : State} (h : s.cfg.logicVfReset = true) (x : Nibble) (r : Byte) :
    s.setLogic x r = s.setResultFlag x r 0#8 := by
  rw [State.setLogic, if_pos h, State.setResultFlag]

/-! ### The register that SHIFT_SOURCE names -/

theorem State.shiftOperand_of_vx {s : State} (h : s.cfg.shiftSource = .vx) (x y : Nibble) :
    s.shiftOperand x y = s.reg x := by
  rw [State.shiftOperand, h]

theorem State.shiftOperand_of_vy {s : State} (h : s.cfg.shiftSource = .vy) (x y : Nibble) :
    s.shiftOperand x y = s.reg y := by
  rw [State.shiftOperand, h]

end Sys2Proof.Machine

/-! ## The obligations -/

namespace Sys2Proof.Proofs

open Sys2Proof.Machine

/-- Settles O46: one register write, which reads no option. -/
theorem setRegisterCopies : Obligations.SetRegisterCopies := by
  unfold Obligations.SetRegisterCopies
  exact ⟨encodedAs_xy .setReg 0x8 0x0, fun x y s =>
    ⟨_, rfl, s.advance.setReg_reg_self x _, rfl, (s.changesOnly_refl _).advance.setReg _ rfl⟩⟩

/-- Settles O47: the three share one write of the result, which LOGIC_VF_RESET makes a result and a flag of 0. -/
theorem logicOperationsWriteResultThenResetVf : Obligations.LogicOperationsWriteResultThenResetVf := by
  unfold Obligations.LogicOperationsWriteResultThenResetVf
  refine ⟨encodedAs_xy .orReg 0x8 0x1, encodedAs_xy .andReg 0x8 0x2, encodedAs_xy .xorReg 0x8 0x3,
    fun x y s i r hi => ?_⟩
  have hexec : exec i s = .next (s.advance.setLogic x r) := by
    rcases hi with ⟨rfl, rfl⟩ | ⟨rfl, rfl⟩ | ⟨rfl, rfl⟩ <;> rfl
  refine ⟨_, hexec, s.advance.setLogic_pc x r, fun hkeep => ?_, fun hreset => ?_⟩
  · rw [State.setLogic_of_no_reset (s := s.advance) hkeep]
    exact ⟨s.advance.setReg_reg_self x r, (s.changesOnly_refl _).advance.setReg r rfl⟩
  · rw [State.setLogic_of_reset (s := s.advance) hreset]
    exact ⟨s.advance.setResultFlag_reg_result r _, s.advance.setResultFlag_reg_flag x r _,
      s.changesOnly_setResultFlag x r _⟩

/-- Settles O48: the sum is that of bytes, and the carry is what it leaves out. -/
theorem addRegistersWritesSumAndCarry : Obligations.AddRegistersWritesSumAndCarry := by
  unfold Obligations.AddRegistersWritesSumAndCarry
  refine ⟨encodedAs_xy .addReg 0x8 0x4, fun x y s =>
    ⟨_, rfl, fun hx => ?_, ?_, rfl, s.changesOnly_setResultFlag x _ _⟩⟩
  · rw [State.setResultFlag_reg_result _ _ _ hx, BitVec.toNat_add]
  · rw [State.setResultFlag_reg_flag, carryOut_toNat]

/-- Settles O49: SUB and SUBN are one subtraction of two bytes, in either order. -/
theorem subtractionsWriteDifferenceAndNotBorrow : Obligations.SubtractionsWriteDifferenceAndNotBorrow := by
  unfold Obligations.SubtractionsWriteDifferenceAndNotBorrow
  refine ⟨encodedAs_xy .subReg 0x8 0x5, encodedAs_xy .subn 0x8 0x7, fun x y s i a b hi => ?_⟩
  obtain ⟨m, n, rfl, rfl, hexec⟩ : ∃ m n : Byte, a = m.toNat ∧ b = n.toNat ∧
      exec i s = .next (s.advance.setResultFlag x (m - n) (notBorrow m n)) := by
    rcases hi with ⟨rfl, ha, hb⟩ | ⟨rfl, ha, hb⟩ <;> exact ⟨_, _, ha, hb, rfl⟩
  refine ⟨_, hexec, fun hx => ?_, fun hle => ?_, fun hlt => ?_, rfl, s.changesOnly_setResultFlag x _ _⟩
  · rw [State.setResultFlag_reg_result _ _ _ hx, byte_sub_toNat]
  · rw [State.setResultFlag_reg_flag, notBorrow_of_le hle]
  · rw [State.setResultFlag_reg_flag, notBorrow_of_lt hlt]

/-- Settles O50: both shift the operand of SHIFT_SOURCE, and the flag is the bit at its other end. -/
theorem shiftsWriteResultAndShiftedOutBit : Obligations.ShiftsWriteResultAndShiftedOutBit := by
  unfold Obligations.ShiftsWriteResultAndShiftedOutBit
  refine ⟨encodedAs_xy .shr 0x8 0x6, encodedAs_xy .shl 0x8 0xE, fun x y s src hsrc => ?_⟩
  obtain rfl : src = (s.shiftOperand x y).toNat := by
    rcases hsrc with ⟨hcfg, hval⟩ | ⟨hcfg, hval⟩
    · rw [hval, State.shiftOperand_of_vx hcfg]
    · rw [hval, State.shiftOperand_of_vy hcfg]
  constructor
  · refine ⟨_, rfl, fun hx => ?_, ?_, rfl, s.changesOnly_setResultFlag x _ _⟩
    · rw [State.setResultFlag_reg_result _ _ _ hx, byte_shiftRight_one_toNat]
    · rw [State.setResultFlag_reg_flag, shiftedOutRight_toNat]
  · refine ⟨_, rfl, fun hx => ?_, ?_, rfl, s.changesOnly_setResultFlag x _ _⟩
    · rw [State.setResultFlag_reg_result _ _ _ hx, byte_shiftLeft_one_toNat]
    · rw [State.setResultFlag_reg_flag, shiftedOutLeft_toNat]

end Sys2Proof.Proofs
end

section
/-! PROOFS, family `44_index_memory`: the checked spans of addresses, what they move, and I after them. -/

open Sys2Proof.Claims

namespace Sys2Proof.Machine

/-! ### Frames -/

section Frames

variable {s t : State} {may : Part → Prop}

/-- I may be assigned without permission when it gets the value it has in `s`. -/
theorem State.ChangesOnly.setIndex_of_imp (h : s.ChangesOnly t may) {a : Word} (ha : ¬ may .index → a = s.i) :
    s.ChangesOnly (t.setIndex a) may := by
  obtain ⟨hreg, -, hrest⟩ := h
  exact ⟨hreg, ha, hrest⟩

/-- The new memory is compared with that of `s`, byte by byte. -/
theorem State.ChangesOnly.setMem (h : s.ChangesOnly t may) {m : Memory}
    (hbyte : ∀ a, ¬ may (.byte a) → m.read a = s.mem.read a) : s.ChangesOnly (t.setMem m) may := by
  obtain ⟨hreg, hindex, hstack, -, hrest⟩ := h
  exact ⟨hreg, hindex, hstack, hbyte, hrest⟩

theorem State.ChangesOnly.loadRegs (h : s.ChangesOnly t may) {x : Nibble}
    (hx : ∀ k : Nibble, k.toNat ≤ x.toNat → may (.reg k)) : s.ChangesOnly (t.loadRegs x) may := by
  obtain ⟨hreg, hrest⟩ := h
  refine ⟨fun r hr => ?_, hrest⟩
  rw [t.reg_loadRegs, if_neg (mt (hx r) hr), hreg r hr]

end Frames

/-! ### A span of addresses -/

section Span

variable {m : Memory} {a : Nat} {bs : List Byte}

theorem Memory.read_writeSpan_add (h : m.wf) (ha : a + bs.length ≤ memSize) {k : Nat} (hk : k < bs.length) :
    (m.writeSpan a bs).read (a + k) = bs.getD k 0#8 := by
  rw [Memory.read_writeSpan h bs ha, if_pos ⟨Nat.le_add_right a k, Nat.add_lt_add_left hk a⟩, Nat.add_sub_cancel_left]

theorem Memory.read_writeSpan_of_ne (h : m.wf) (ha : a + bs.length ≤ memSize) {q : Nat}
    (hq : ∀ k, k < bs.length → q ≠ a + k) : (m.writeSpan a bs).read q = m.read q := by
  rw [Memory.read_writeSpan h bs ha, if_neg]
  rintro ⟨hle, hlt⟩
  exact hq (q - a) (by omega) (by omega)

end Span

/-- The last address of a nonempty span decides its check (R170, R201). -/
theorem State.spanInBounds_succ_iff {s : State} {n : Nat} :
    s.spanInBounds (n + 1) = true ↔ s.i.toNat + n ≤ 0xFFF := by
  rw [s.spanInBounds_iff, memSize]
  omega

/-- Past its last address a span fails the check. -/
theorem State.not_spanInBounds_succ {s : State} {n : Nat} (h : 0xFFF < s.i.toNat + n) :
    ¬ s.spanInBounds (n + 1) = true :=
  mt State.spanInBounds_succ_iff.mp (not_le.mpr h)

/-! ### The operands -/

/-- A digit in range addresses its glyph, and the last glyph ends far below 2^16 (R172). -/
theorem glyphAddress_toNat (d : Fin 16) : (glyphAddress d).toNat = 0x050 + 5 * d.val := by
  have hd := d.isLt
  rw [glyphAddress, fontBase, BitVec.toNat_ofNat]
  omega

theorem byteToWord_toNat (b : Byte) : (byteToWord b).toNat = b.toNat :=
  BitVec.toNat_setWidth_of_le (by decide)

/-- Each digit of a byte is below 10, so it fits in a byte itself (R173). -/
theorem decimalDigits_toNat (b : Byte) :
    ((decimalDigits b).getD 0 0#8).toNat = b.toNat / 100 ∧
      ((decimalDigits b).getD 1 0#8).toNat = b.toNat / 10 % 10 ∧
      ((decimalDigits b).getD 2 0#8).toNat = b.toNat % 10 := by
  have hb := b.isLt
  refine ⟨Nat.mod_eq_of_lt ?_, Nat.mod_eq_of_lt ?_, Nat.mod_eq_of_lt ?_⟩ <;> omega

/-- I after STORE and LOAD, for both values of LOADSTORE_I (R174, R175). -/
theorem indexAfter_setIndex (s t : State) (x : Nibble) : IndexAfter s (t.setIndex (s.indexAfterSpan x)) x := by
  constructor <;> intro hcfg <;> rw [State.setIndex_i, State.indexAfterSpan, hcfg]
  have hx := x.isLt
  rw [BitVec.toNat_add, BitVec.toNat_ofNat]
  omega

/-! ### The instructions that complete -/

section Completes

variable {s : State} {x : Nibble}

theorem exec_font_of_digit {d : Fin 16} (h : (s.reg x).toNat = d.val) :
    exec (.font x) s = .next (s.advance.setIndex (glyphAddress d)) := by
  change execFont x s = _
  rw [execFont, hexIndex_eq_some.mpr h]

theorem exec_font_of_not_digit (h : 0xF < (s.reg x).toNat) :
    exec (.font x) s = s.raise .outOfBoundsAccess (encode (.font x)) := by
  change execFont x s = _
  rw [execFont, hexIndex_eq_none.mpr h]

theorem exec_bcd_of_inBounds (h : s.i.toNat + 2 ≤ 0xFFF) :
    exec (.bcd x) s = .next (s.advance.setMem (s.mem.writeSpan s.i.toNat (decimalDigits (s.reg x)))) :=
  if_pos (State.spanInBounds_succ_iff.mpr h)

theorem exec_store_of_inBounds (h : s.i.toNat + x.toNat ≤ 0xFFF) :
    exec (.store x) s =
      .next ((s.advance.setMem (s.mem.writeSpan s.i.toNat (s.regsUpTo x))).setIndex (s.indexAfterSpan x)) :=
  if_pos (State.spanInBounds_succ_iff.mpr h)

theorem exec_load_of_inBounds (h : s.i.toNat + x.toNat ≤ 0xFFF) :
    exec (.load x) s = .next ((s.advance.loadRegs x).setIndex (s.indexAfterSpan x)) :=
  if_pos (State.spanInBounds_succ_iff.mpr h)

end Completes

/-! ### What STORE leaves in memory -/

section Store

variable {s : State} {x : Nibble}

theorem State.regsUpTo_span_le (h : s.i.toNat + x.toNat ≤ 0xFFF) :
    s.i.toNat + (s.regsUpTo x).length ≤ memSize := by
  rw [s.regsUpTo_length, memSize]
  omega

theorem State.read_writeSpan_regsUpTo (hwf : s.mem.wf) (h : s.i.toNat + x.toNat ≤ 0xFFF) {k : Nibble}
    (hk : k.toNat ≤ x.toNat) : (s.mem.writeSpan s.i.toNat (s.regsUpTo x)).read (s.i.toNat + k.toNat) = s.reg k := by
  have hlen : k.toNat < (s.regsUpTo x).length := by
    rw [s.regsUpTo_length]
    omega
  rw [Memory.read_writeSpan_add hwf (State.regsUpTo_span_le h) hlen, s.regsUpTo_getD x hk, BitVec.ofNat_toNat,
    BitVec.setWidth_eq]

end Store

end Sys2Proof.Machine

/-! ## The obligations -/

namespace Sys2Proof.Proofs

open Sys2Proof.Machine

/-- Settles O51: I is assigned a sum of words, and no check is made. -/
theorem addIndexWrapsAtSixteenBits : Obligations.AddIndexWrapsAtSixteenBits := by
  unfold Obligations.AddIndexWrapsAtSixteenBits
  refine ⟨encodedAs_x .addI 0xF 0x1E, fun x s => ⟨_, rfl, ?_, rfl, (s.changesOnly_refl _).advance.setIndex _ rfl⟩⟩
  rw [State.setIndex_i, BitVec.toNat_add, byteToWord_toNat]

/-- Settles O52: V[X] is the index of a glyph, or of none. -/
theorem fontAddressesTheGlyph : Obligations.FontAddressesTheGlyph := by
  unfold Obligations.FontAddressesTheGlyph
  refine ⟨encodedAs_x .font 0xF 0x29, fun x s => ⟨fun h => ?_, fun h => ?_⟩⟩
  · have hdigit : (s.reg x).toNat < 16 := Nat.lt_succ_of_le h
    exact ⟨_, exec_font_of_digit (d := ⟨_, hdigit⟩) rfl, glyphAddress_toNat _, rfl,
      (s.changesOnly_refl _).advance.setIndex _ rfl⟩
  · exact ⟨_, exec_font_of_not_digit h, s.haltsAs_haltWith ..⟩

/-- Settles O53: three bytes are written, each a digit. -/
theorem bcdStoresThreeDigits : Obligations.BcdStoresThreeDigits := by
  unfold Obligations.BcdStoresThreeDigits
  refine ⟨encodedAs_x .bcd 0xF 0x33, fun x s hwf => ⟨fun h => ?_, fun h => ?_⟩⟩
  · have hspan : s.i.toNat + (decimalDigits (s.reg x)).length ≤ memSize := Nat.succ_le_succ h
    obtain ⟨hhundreds, htens, hones⟩ := decimalDigits_toNat (s.reg x)
    have hread (k : Nat) (hk : k < 3) := Memory.read_writeSpan_add hwf hspan (k := k) hk
    refine ⟨_, exec_bcd_of_inBounds h, ?_, ?_, ?_, rfl, (s.changesOnly_refl _).advance.setMem fun a ha => ?_⟩
    · exact (congrArg BitVec.toNat (hread 0 (by decide))).trans hhundreds
    · exact (congrArg BitVec.toNat (hread 1 (by decide))).trans htens
    · exact (congrArg BitVec.toNat (hread 2 (by decide))).trans hones
    · exact Memory.read_writeSpan_of_ne hwf hspan fun k hk he => ha ⟨k, hk, congrArg Part.byte he⟩
  · exact ⟨_, if_neg (State.not_spanInBounds_succ h), s.haltsAs_haltWith ..⟩

/-- Settles O54: the span that is written is V0 to VX, and I is assigned by LOADSTORE_I. -/
theorem storeWritesRegistersToMemory : Obligations.StoreWritesRegistersToMemory := by
  unfold Obligations.StoreWritesRegistersToMemory
  refine ⟨encodedAs_x .store 0xF 0x55, fun x s hwf => ⟨fun h => ?_, fun h => ?_⟩⟩
  · refine ⟨_, exec_store_of_inBounds h, fun k hk => State.read_writeSpan_regsUpTo hwf h hk,
      indexAfter_setIndex .., rfl, ?_⟩
    refine ((s.changesOnly_refl _).advance.setMem fun a ha => ?_).setIndex_of_imp fun hi => ?_
    · refine Memory.read_writeSpan_of_ne hwf (State.regsUpTo_span_le h) fun k hk he => ha (.inr ⟨k, ?_, by rw [he]⟩)
      rw [s.regsUpTo_length] at hk
      exact Nat.le_of_lt_succ hk
    · exact by_contra fun hne => hi (.inl ⟨State.increment_of_indexAfterSpan_ne hne, rfl⟩)
  · exact ⟨_, if_neg (State.not_spanInBounds_succ h), s.haltsAs_haltWith ..⟩

/-- Settles O55: each register up to X is read from its own address, and I is assigned by LOADSTORE_I. -/
theorem loadReadsRegistersFromMemory : Obligations.LoadReadsRegistersFromMemory := by
  unfold Obligations.LoadReadsRegistersFromMemory
  refine ⟨encodedAs_x .load 0xF 0x65, fun x s => ⟨fun h => ?_, fun h => ?_⟩⟩
  · refine ⟨_, exec_load_of_inBounds h, fun k hk => ?_, indexAfter_setIndex .., rfl, ?_⟩
    · rw [State.setIndex_reg, State.reg_loadRegs, if_pos hk]
      rfl
    · refine ((s.changesOnly_refl _).advance.loadRegs fun k hk => .inr ⟨k, hk, rfl⟩).setIndex_of_imp fun hi => ?_
      exact by_contra fun hne => hi (.inl ⟨State.increment_of_indexAfterSpan_ne hne, rfl⟩)
  · exact ⟨_, if_neg (State.not_spanInBounds_succ h), s.haltsAs_haltWith ..⟩

end Sys2Proof.Proofs
end

section
/-! PROOFS, family `45_timers_input_random`: the frames of the timers and of the oracle, and the key that V[X] names. -/

open Sys2Proof.Claims

namespace Sys2Proof.Machine

/-! ### Frames -/

section Frames

variable {s t : State} {may : Part → Prop}

theorem State.ChangesOnly.setDelay (h : s.ChangesOnly t may) (b : Byte) (hdelay : may .delay) :
    s.ChangesOnly (t.setDelay b) may := by
  obtain ⟨hreg, hindex, hstack, hmem, hpixel, hdirty, -, hrest⟩ := h
  exact ⟨hreg, hindex, hstack, hmem, hpixel, hdirty, fun hn => absurd hdelay hn, hrest⟩

theorem State.ChangesOnly.setSound (h : s.ChangesOnly t may) (b : Byte) (hsound : may .sound) :
    s.ChangesOnly (t.setSound b) may := by
  obtain ⟨hreg, hindex, hstack, hmem, hpixel, hdirty, hdelay, -, hrest⟩ := h
  exact ⟨hreg, hindex, hstack, hmem, hpixel, hdirty, hdelay, fun hn => absurd hsound hn, hrest⟩

theorem State.ChangesOnly.takeAnswer (h : s.ChangesOnly t may) (horacle : may .oracle) :
    s.ChangesOnly t.takeAnswer may := by
  obtain ⟨hreg, hindex, hstack, hmem, hpixel, hdirty, hdelay, hsound, -, hrest⟩ := h
  exact ⟨hreg, hindex, hstack, hmem, hpixel, hdirty, hdelay, hsound, fun hn => absurd horacle hn, hrest⟩

/-- The frame of RAND and of WAITKEY, which take an oracle answer and write one register. -/
theorem State.changesOnly_setReg_takeAnswer (s : State) (x : Nibble) (b : Byte) :
    s.ChangesOnly (s.advance.setReg x b).takeAnswer (fun p => p = .reg x ∨ p = .oracle) :=
  ((s.changesOnly_refl _).advance.setReg b (.inl rfl)).takeAnswer (.inr rfl)

end Frames

/-! ### Keys -/

section Keys

variable {s : State} {x : Nibble}

theorem exec_skipKey_of_key {k : Fin 16} (h : (s.reg x).toNat = k.val) :
    exec (.skipKey x) s = .next (s.advance.skipIf (decide (s.key[k] = true))) := by
  change execSkipKey x s = _
  rw [execSkipKey, hexIndex_eq_some.mpr h, Bool.decide_eq_true]

theorem exec_skipNkey_of_key {k : Fin 16} (h : (s.reg x).toNat = k.val) :
    exec (.skipNkey x) s = .next (s.advance.skipIf (decide (s.key[k] = false))) := by
  change execSkipNkey x s = _
  rw [execSkipNkey, hexIndex_eq_some.mpr h, Bool.decide_eq_false]

theorem exec_skipKey_of_not_key (h : 0xF < (s.reg x).toNat) :
    exec (.skipKey x) s = s.raise .outOfBoundsAccess (encode (.skipKey x)) := by
  change execSkipKey x s = _
  rw [execSkipKey, hexIndex_eq_none.mpr h]

theorem exec_skipNkey_of_not_key (h : 0xF < (s.reg x).toNat) :
    exec (.skipNkey x) s = s.raise .outOfBoundsAccess (encode (.skipNkey x)) := by
  change execSkipNkey x s = _
  rw [execSkipNkey, hexIndex_eq_none.mpr h]

/-- With a key down WAITKEY does not hold (R190). -/
theorem exec_waitKey_of_down (x : Nibble) (h : ∃ k : Fin 16, s.key[k] = true) :
    ∃ k : Fin 16, s.key[k] = true ∧
      exec (.waitKey x) s = .next (s.advance.setReg x (BitVec.ofNat 8 k.val)).takeAnswer := by
  obtain ⟨k, hdown⟩ := h
  rcases execWaitKey_cases x s with ⟨hup, -⟩ | hstores
  · exact absurd ((hup k).symm.trans hdown) Bool.false_ne_true
  · exact hstores

/-- The number of a key fits in a byte. -/
theorem keyByte_toNat (k : Fin 16) : (BitVec.ofNat 8 k.val).toNat = k.val :=
  Nat.mod_eq_of_lt (k.isLt.trans (by decide))

end Keys

/-! ### Sound -/

/-- The sound is active exactly while ST is not 0 (R215). -/
theorem State.soundActive_iff (s : State) : s.soundActive = true ↔ s.st ≠ 0#8 :=
  decide_eq_true_iff

end Sys2Proof.Machine

/-! ## The obligations -/

namespace Sys2Proof.Proofs

open Sys2Proof.Machine

/-- Settles O56: nothing is used of the byte that is drawn; the masks 0 and 0xFF absorb it or keep it. -/
theorem randMasksTheDraw : Obligations.RandMasksTheDraw := by
  unfold Obligations.RandMasksTheDraw
  refine ⟨encodedAs_xnn .rand 0xC, fun x nn s => ?_⟩
  have hreg : (s.advance.setReg x (Config.drawByte s.oracle &&& nn)).takeAnswer.reg x =
      Config.drawByte s.oracle &&& nn := s.advance.setReg_reg_self x _
  refine ⟨_, rfl, hreg, fun hzero => ?_, fun hones => ?_, rfl, s.changesOnly_setReg_takeAnswer x _⟩
  · rw [hreg, hzero, BitVec.and_zero]
  · rw [hreg, hones]
    exact BitVec.and_allOnes

/-- Settles O57: V[X] is the number of a key, or of none; a key that is not down is up. -/
theorem keySkipsReadTheKeypad : Obligations.KeySkipsReadTheKeypad := by
  unfold Obligations.KeySkipsReadTheKeypad
  refine ⟨encodedAs_x .skipKey 0xE 0x9E, encodedAs_x .skipNkey 0xE 0xA1, fun x s => ⟨fun k h => ?_, fun h => ?_⟩⟩
  · exact ⟨⟨_, exec_skipKey_of_key h, skipsWhen_skipIf s (s.key[k] = true)⟩,
      ⟨_, exec_skipNkey_of_key h, skipsWhen_skipIf s (s.key[k] = false)⟩⟩
  · exact ⟨⟨_, exec_skipKey_of_not_key h, s.haltsAs_haltWith ..⟩,
      ⟨_, exec_skipNkey_of_not_key h, s.haltsAs_haltWith ..⟩⟩

/-- Settles O58: the key that is picked is among those that are down, whatever number picks it. -/
theorem waitKeyStoresAKeyThatIsDown : Obligations.WaitKeyStoresAKeyThatIsDown := by
  unfold Obligations.WaitKeyStoresAKeyThatIsDown
  refine ⟨encodedAs_x .waitKey 0xF 0x0A, fun x s hsome => ?_⟩
  obtain ⟨k, hdown, hexec⟩ := exec_waitKey_of_down x hsome
  refine ⟨_, hexec, ⟨k, hdown, ?_⟩, rfl, s.changesOnly_setReg_takeAnswer x _⟩
  rw [State.takeAnswer_reg, State.setReg_reg_self, keyByte_toNat]

/-- Settles O60: one write each, and the sound is read from the ST that was written. -/
theorem timerInstructionsMoveTimers : Obligations.TimerInstructionsMoveTimers := by
  unfold Obligations.TimerInstructionsMoveTimers
  refine ⟨encodedAs_x .getDt 0xF 0x07, encodedAs_x .setDt 0xF 0x15, encodedAs_x .setSt 0xF 0x18,
    fun x s => ⟨?_, ?_, ?_⟩⟩
  · exact ⟨_, rfl, s.advance.setReg_reg_self x _, rfl, (s.changesOnly_refl _).advance.setReg _ rfl⟩
  · exact ⟨_, rfl, rfl, rfl, (s.changesOnly_refl _).advance.setDelay _ rfl⟩
  · exact ⟨_, rfl, rfl, rfl, State.soundActive_iff _, (s.changesOnly_refl _).advance.setSound _ rfl⟩

end Sys2Proof.Proofs
end

section
/-! PROOFS, family `60_exceptions`: exactly when a cycle raises each error, and what an enabled host action writes. -/

open Sys2Proof.Claims

namespace Sys2Proof.Machine

/-! ### The errors of an instruction -/

/-- Instruction `i` raises error `r` from `s`: the conditions of R201, R203 and R204. -/
inductive RaisesError (s : State) : Instr → HaltReason → Prop
  | outOfBounds {i : Instr} (hi : OutOfBounds s i) : RaisesError s i .outOfBoundsAccess
  | overflow (nnn : Addr) (hfull : s.stack.length = s.cfg.stackDepth) : RaisesError s (.call nnn) .stackOverflow
  | underflow (hempty : s.stack = []) : RaisesError s .ret .stackUnderflow

/-- A cycle from `s` raises error `r`: at its fetch (R88), at its decoding (R90), or by its instruction. -/
inductive CycleRaises (s : State) : HaltReason → Prop
  | fetch (hfetch : s.fetch = none) : CycleRaises s .outOfBoundsAccess
  | unknown {w : Word} (hfetch : s.fetch = some w) (hunknown : ∀ i, decode s.cfg.profile w ≠ .ok i) :
      CycleRaises s .unknownOpcode
  | instruction {i : Instr} {r : HaltReason} (hfetches : Fetches s i) (hraises : RaisesError s i r) : CycleRaises s r

section Errors

variable {s t : State} {i : Instr} {r : HaltReason} {w : Option Word}

theorem State.HaltsAs.reason_eq {q : HaltReason} {p : Word} {v : Option Word}
    (h : s.HaltsAs (s.haltWith q p v) r w) : q = r := by
  obtain ⟨-, hhalt, -⟩ := h
  exact congrArg HaltRecord.reason (Option.some.inj hhalt)

/-- An effect that halts a Running engine is an error, raised under its own condition. -/
theorem Effect.raisesError (h : Effect s i t) (hrun : s.run = .running) (hhalts : s.HaltsAs t r w) :
    RaisesError s i r := by
  cases h with
  | outOfBounds hi => exact hhalts.reason_eq ▸ .outOfBounds hi
  | overflow nnn hfull => exact hhalts.reason_eq ▸ .overflow nnn hfull
  | underflow hempty => exact hhalts.reason_eq ▸ .underflow hempty
  | _ =>
    obtain ⟨hhalted, -⟩ := hhalts
    simp [hrun] at hhalted

/-- An instruction whose own condition of R201 is met raises the error instead of its effect. -/
theorem exec_of_outOfBounds (h : OutOfBounds s i) : exec i s = s.raise .outOfBoundsAccess (encode i) := by
  cases i with
  | draw x y n =>
    have hout : ¬ SpriteInBounds s n := by
      simp only [OutOfBounds] at h
      unfold SpriteInBounds
      omega
    exact if_neg (mt spanInBounds_iff_spriteInBounds.mp hout)
  | bcd | store | load => exact if_neg (State.not_spanInBounds_succ h)
  | font => exact exec_font_of_not_digit h
  | skipKey => exact exec_skipKey_of_not_key h
  | skipNkey => exact exec_skipNkey_of_not_key h
  | _ => exact absurd h id

theorem RaisesError.exec_eq_raise (h : RaisesError s i r) : exec i s = s.raise r (encode i) := by
  cases h with
  | outOfBounds hi => exact exec_of_outOfBounds hi
  | overflow nnn hfull => exact exec_call_of_full nnn hfull
  | underflow hempty => exact exec_ret_of_empty hempty

/-! ### The errors of a cycle -/

theorem CycleRaises.cycle_halts (h : CycleRaises s r) (hrun : s.run = .running) :
    ∃ t w, cycle s = .next t ∧ s.HaltsAs t r w := by
  cases h with
  | fetch hfetch => exact ⟨_, _, cycle_of_fetch_eq_none hrun hfetch, s.haltsAs_haltWith ..⟩
  | unknown hfetch hunknown => exact ⟨_, _, cycle_of_unknown hrun hfetch hunknown, s.haltsAs_haltWith ..⟩
  | instruction hfetches hraises =>
    obtain ⟨w, hfetch, hdecode⟩ := fetches_iff.mp hfetches
    have hcycle := (cycle_of_decode hrun hfetch hdecode).trans hraises.exec_eq_raise
    exact ⟨_, _, hcycle, s.haltsAs_haltWith ..⟩

theorem cycleRaises_of_cycle (h : cycle s = .next t) (hhalts : s.HaltsAs t r w) : CycleRaises s r := by
  obtain ⟨hrun, ⟨hfetch, rfl⟩ | ⟨w, hfetch, hunknown, rfl⟩ | ⟨w, i, hfetch, hdecode, hexec⟩⟩ := cycle_cases h
  · exact hhalts.reason_eq ▸ .fetch hfetch
  · exact hhalts.reason_eq ▸ .unknown hfetch hunknown
  · exact .instruction (fetches_iff.mpr ⟨w, hfetch, hdecode⟩) ((effect_of_exec hexec).raisesError hrun hhalts)

/-- The step of a Running engine whose cycle is due halts with an error exactly when its cycle raises it (R96). -/
theorem step_haltsAs_iff (hdue : s.CycleDue) (hrun : s.run = .running) :
    (∃ t w, step s = .next t ∧ s.dequeue.HaltsAs t r w) ↔ CycleRaises s.dequeue r := by
  rw [step_of_cycleDue hdue]
  constructor
  · rintro ⟨t, w, hcycle, hhalts⟩
    exact cycleRaises_of_cycle hcycle hhalts
  · intro h
    exact h.cycle_halts hrun

theorem cycleRaises_outOfBoundsAccess_iff :
    CycleRaises s .outOfBoundsAccess ↔ 0xFFF ≤ s.pc.toNat ∨ ∃ i, Fetches s i ∧ OutOfBounds s i := by
  constructor
  · intro h
    cases h with
    | fetch hfetch => exact .inl (State.fetch_eq_none.mp hfetch)
    | instruction hfetches hraises =>
      cases hraises with
      | outOfBounds hi => exact .inr ⟨_, hfetches, hi⟩
  · rintro (hpc | ⟨i, hfetches, hi⟩)
    · exact .fetch (State.fetch_eq_none.mpr hpc)
    · exact .instruction hfetches (.outOfBounds hi)

theorem cycleRaises_stackOverflow_iff :
    CycleRaises s .stackOverflow ↔ ∃ nnn, Fetches s (.call nnn) ∧ s.stack.length = s.cfg.stackDepth := by
  constructor
  · intro h
    cases h with
    | instruction hfetches hraises =>
      cases hraises with
      | overflow nnn hfull => exact ⟨nnn, hfetches, hfull⟩
  · rintro ⟨nnn, hfetches, hfull⟩
    exact .instruction hfetches (.overflow nnn hfull)

theorem cycleRaises_stackUnderflow_iff : CycleRaises s .stackUnderflow ↔ Fetches s .ret ∧ s.stack = [] := by
  constructor
  · intro h
    cases h with
    | instruction hfetches hraises =>
      cases hraises with
      | underflow hempty => exact ⟨hfetches, hempty⟩
  · rintro ⟨hfetches, hempty⟩
    exact .instruction hfetches (.underflow hempty)

end Errors

/-! ### What an enabled host action writes -/

/-- A timer counts down as a natural number does, staying at 0 (R214). -/
theorem countDown_toNat (b : Byte) : (countDown b).toNat = b.toNat - 1 := by
  unfold countDown
  split <;> bv_omega

section HostActions

variable {s t : State}

theorem HostEffect.eq_of_not_enabled {a : HostAction} (h : HostEffect s a t) (ha : ¬ Enabled s a) : t = s := by
  cases h with
  | disabled => rfl
  | load hready | tooLarge hready => exact absurd hready ha
  | stop hrun | setKey _ _ hrun | tick hrun => exact absurd hrun ha
  | present => exact absurd trivial ha

theorem HostEffect.eq_of_tick (h : HostEffect s .tick t) (hrun : s.run = .running) :
    t = { s with dt := countDown s.dt, st := countDown s.st } := by
  cases h with
  | disabled ha => exact absurd hrun ha
  | tick => rfl

theorem HostEffect.eq_of_setKey {k : Nibble} {down : Bool} (h : HostEffect s (.setKey k down) t)
    (hrun : s.run ≠ .halted) : t = { s with key := s.key.set k.toNat down k.isLt } := by
  cases h with
  | disabled ha => exact absurd hrun ha
  | setKey => rfl

theorem HostEffect.eq_of_present (h : HostEffect s .present t) : t = { s with dirty := false } := by
  cases h with
  | disabled ha => exact absurd trivial ha
  | present => rfl

end HostActions

end Sys2Proof.Machine

/-! ## The obligations -/

namespace Sys2Proof.Proofs

open Sys2Proof.Machine

/-- Settles O14: of what a cycle can raise, the fetch fault and the conditions of R201 are OutOfBoundsAccess. -/
theorem outOfBoundsRaisedExactlyWhen : Obligations.OutOfBoundsRaisedExactlyWhen := by
  unfold Obligations.OutOfBoundsRaisedExactlyWhen
  intro s hdue hrun
  exact (step_haltsAs_iff hdue hrun).trans cycleRaises_outOfBoundsAccess_iff

/-- Settles O15: of what a cycle can raise, CALL on a full stack and RETURN on an empty one are the stack errors. -/
theorem stackErrorsRaisedExactlyWhen : Obligations.StackErrorsRaisedExactlyWhen := by
  unfold Obligations.StackErrorsRaisedExactlyWhen
  intro s hdue hrun
  exact ⟨(step_haltsAs_iff hdue hrun).trans cycleRaises_stackOverflow_iff,
    (step_haltsAs_iff hdue hrun).trans cycleRaises_stackUnderflow_iff⟩

/-- Settles O27: the effect of an enabled Tick writes two timers, each counted down. -/
theorem tickCountsDownBothTimers : Obligations.TickCountsDownBothTimers := by
  unfold Obligations.TickCountsDownBothTimers
  intro s rest hdue hrun
  obtain ⟨t, hstep, heffect⟩ := step_host_effect hdue
  obtain rfl := heffect.eq_of_tick hrun
  exact ⟨_, hstep, countDown_toNat s.dt, countDown_toNat s.st, rfl⟩

/-- Settles O28: Present is enabled in every run state, and its effect writes the dirty bit only. -/
theorem presentReturnsDisplayAndClearsDirty : Obligations.PresentReturnsDisplayAndClearsDirty := by
  unfold Obligations.PresentReturnsDisplayAndClearsDirty
  intro s rest hdue
  obtain ⟨t, hstep, heffect⟩ := step_host_effect hdue
  obtain rfl := heffect.eq_of_present
  exact ⟨_, hstep, fun _ _ => rfl, rfl, rfl⟩

/-- Settles O29: the effect of an enabled SetKey writes one entry of the keypad. -/
theorem setKeyWritesOneKey : Obligations.SetKeyWritesOneKey := by
  unfold Obligations.SetKeyWritesOneKey
  intro s k b rest hdue hrun
  obtain ⟨t, hstep, heffect⟩ := step_host_effect hdue
  obtain rfl := heffect.eq_of_setKey hrun
  exact ⟨_, hstep, rfl, fun j => (Vector.getElem_set k.isLt j.isLt).trans (if_congr eq_comm rfl rfl)⟩

/-- Settles O32: the effect of an action that is not enabled is the dequeued state itself. -/
theorem actionsNotEnabledHaveNoEffect : Obligations.ActionsNotEnabledHaveNoEffect := by
  unfold Obligations.ActionsNotEnabledHaveNoEffect
  intro s a rest hdue ha
  obtain ⟨t, hstep, heffect⟩ := step_host_effect hdue
  obtain rfl := heffect.eq_of_not_enabled (s := s.dequeue) ha
  exact hstep

end Sys2Proof.Proofs
end

section
/-! PROOFS, family `70_reset_and_hazards`: the ROM that LoadRom copies from 0x200 on. -/

namespace Sys2Proof.Machine

variable {s t : State} {rom : List Byte}

/-- The 3584 bytes from 0x200 on end where memory does (R232). -/
theorem progBase_add_length_le (hfits : rom.length ≤ maxRom) : progBase + rom.length ≤ memSize := by
  unfold maxRom at hfits
  unfold progBase memSize
  omega

theorem HostEffect.eq_writeSpan_of_loadRom (h : HostEffect s (.loadRom rom) t) (hready : s.run = .ready)
    (hfits : rom.length ≤ maxRom) : t = { s with mem := s.mem.writeSpan progBase rom, run := .running } := by
  cases h with
  | disabled ha => exact absurd hready ha
  | load => rfl
  | tooLarge _ hlong => exact absurd hfits (not_le.mpr hlong)

end Sys2Proof.Machine

/-! ## The obligations -/

namespace Sys2Proof.Proofs

open Sys2Proof.Machine

/-- Settles O31: a ROM that fits is a span written inside canonical memory; a longer one halts and writes nothing
else. -/
theorem loadRomCopiesAndStartsOrHalts : Obligations.LoadRomCopiesAndStartsOrHalts := by
  unfold Obligations.LoadRomCopiesAndStartsOrHalts
  intro s rom rest hwf hdue hready
  obtain ⟨t, hstep, heffect⟩ := step_host_effect hdue
  refine ⟨t, hstep, fun hfits => ?_, fun hlong => ?_⟩
  · obtain rfl := heffect.eq_writeSpan_of_loadRom hready hfits
    have hspan : progBase + rom.length ≤ memSize := progBase_add_length_le hfits
    refine ⟨rfl, fun j hj => Memory.read_writeSpan_add hwf hspan hj, fun a ha => ?_, rfl⟩
    refine Memory.read_writeSpan_of_ne hwf hspan fun k hk he => ?_
    unfold progBase at he
    omega
  · obtain rfl := heffect.eq_haltWith_of_loadRom hready hlong
    exact ⟨rfl, rfl, rfl⟩

end Sys2Proof.Proofs
end
